-- ==== Sys2Proof/Word.lean ====
section
/-! DEFINITION. The two word types of the unit (spec/00_scope.md R7, R10): everything is unsigned,
8-bit registers and bytes, 16-bit index register, program counter and instruction words. -/

namespace Sys2Proof

/-- A byte of memory, a general register, a timer or the stack pointer (R30, R35, R36, R70). -/
abbrev Byte := BitVec 8

/-- An instruction word, an address register or a stacked return address (R32, R33, R34, R100). -/
abbrev Word := BitVec 16

/-- The name of a general register, `V0` to `VF` (R30). -/
abbrev RegName := Fin 16

/-- The name of a logical key, 0x0 to 0xF (R38). -/
abbrev KeyName := Fin 16

end Sys2Proof
end

