-- ==== Sys2Proof/Config.lean ====
section
/-! DEFINITION. The implementation parameters of the unit (spec/00_scope.md R7) and the one free value of
the spec, the byte the `RNG` oracle yields (D19, R43, R181).

The parameters are plain data held in `State.params`, so that a statement about every state is a statement
about every value of every parameter, as R7 asks. Their conventional values are
`Machine.Params.conventional` (Machine/Parameters.lean). -/

namespace Sys2Proof

/-- `SHIFT_SOURCE`: the operand `SHR` and `SHL` shift (D7). -/
inductive ShiftSource where
  | vx
  | vy
  deriving DecidableEq, Repr

/-- `JUMP_OFFSET_REG`: the register `JP V0, addr` adds (D11). -/
inductive JumpOffsetReg where
  | v0
  | vx
  deriving DecidableEq, Repr

/-- `FONT_DIGIT_MODE`: how `LD F, Vx` treats a value above 0xF (D14). -/
inductive FontDigitMode where
  | lowNibble
  | full
  deriving DecidableEq, Repr

/-- `KEYWAIT_TRIGGER`: what completes `LD Vx, K` (D18). -/
inductive KeyWaitTrigger where
  | level
  | edge
  deriving DecidableEq, Repr

/-- The decided parameters of R7. The parameters the source itself states (`NUM_V` = 16, the register
widths, `STACK_DEPTH` = 16, `NUM_KEYS` = 16) are in the types of `State`; `PROG_CAPACITY` is derived. -/
structure Params where
  /-- `MEM_SIZE`, bytes of memory (D1). -/
  memSize : Nat
  /-- `ENTRY`, the first byte of the program region and the reset vector (D2, R384). -/
  entry : Nat
  /-- `FONT_BASE`, the address of glyph 0 (D3). -/
  fontBase : Nat
  /-- `GLYPH_BYTES`, bytes per glyph (D3). -/
  glyphBytes : Nat
  /-- `DISP_W`, the display's width in pixels (D4). -/
  dispW : Nat
  /-- `DISP_H`, the display's height in pixels (D4). -/
  dispH : Nat
  /-- `SHIFT_SOURCE` (D7). -/
  shiftSource : ShiftSource
  /-- `VF_RESET_ON_LOGIC` (D9). -/
  vfResetOnLogic : Bool
  /-- `JUMP_OFFSET_REG` (D11). -/
  jumpOffsetReg : JumpOffsetReg
  /-- `LOADSTORE_I_INCREMENT` (D12). -/
  loadStoreIIncrement : Bool
  /-- `FONT_DIGIT_MODE` (D14). -/
  fontDigitMode : FontDigitMode
  /-- `KEYWAIT_TRIGGER` (D18). -/
  keyWaitTrigger : KeyWaitTrigger
  deriving DecidableEq, Repr

/-- `PROG_CAPACITY`, the size of the program region (R7: `MEM_SIZE - ENTRY`). -/
def Params.progCapacity (p : Params) : Nat := p.memSize - p.entry

/-- The byte the `RNG` oracle yields at its `k`-th draw. It has no body: R181 lets it be any byte, under no
law, so nothing can be proved of its value and every claim holds for every value (log entry 2). -/
opaque Config.rngByte : Nat → Byte

end Sys2Proof
end

