-- ==== Sys2Proof/Syntax.lean ====
section
/-! DEFINITION. The 34 instructions of the decode ROM (spec/30_encoding.md R103), one constructor a row in
the table's order, with the fields of R100 as typed operands; and the textual form the disassembler reports
(R109, R111): a mnemonic and a list of operands. -/

namespace Sys2Proof

/-- One instruction with its operands (R103, R104). `x`, `y` name registers, `kk` is the byte immediate,
`nnn` the address immediate, `n` the sprite height. -/
inductive Instr where
  /-- row 1, `00E0` -/
  | cls
  /-- row 2, `00EE` -/
  | ret
  /-- row 3, `1nnn`, `JP addr` -/
  | jp (nnn : BitVec 12)
  /-- row 4, `2nnn`, `CALL addr` -/
  | call (nnn : BitVec 12)
  /-- row 5, `3xkk`, `SE Vx, byte` -/
  | seByte (x : RegName) (kk : Byte)
  /-- row 6, `4xkk`, `SNE Vx, byte` -/
  | sneByte (x : RegName) (kk : Byte)
  /-- row 7, `5xy0`, `SE Vx, Vy` -/
  | seReg (x y : RegName)
  /-- row 8, `6xkk`, `LD Vx, byte` -/
  | ldByte (x : RegName) (kk : Byte)
  /-- row 9, `7xkk`, `ADD Vx, byte` -/
  | addByte (x : RegName) (kk : Byte)
  /-- row 10, `8xy0`, `LD Vx, Vy` -/
  | ldReg (x y : RegName)
  /-- row 11, `8xy1`, `OR Vx, Vy` -/
  | orReg (x y : RegName)
  /-- row 12, `8xy2`, `AND Vx, Vy` -/
  | andReg (x y : RegName)
  /-- row 13, `8xy3`, `XOR Vx, Vy` -/
  | xorReg (x y : RegName)
  /-- row 14, `8xy4`, `ADD Vx, Vy` -/
  | addReg (x y : RegName)
  /-- row 15, `8xy5`, `SUB Vx, Vy` -/
  | subReg (x y : RegName)
  /-- row 16, `8xy6`, `SHR Vx, Vy` -/
  | shr (x y : RegName)
  /-- row 17, `8xy7`, `SUBN Vx, Vy` -/
  | subnReg (x y : RegName)
  /-- row 18, `8xyE`, `SHL Vx, Vy` -/
  | shl (x y : RegName)
  /-- row 19, `9xy0`, `SNE Vx, Vy` -/
  | sneReg (x y : RegName)
  /-- row 20, `Annn`, `LD I, addr` -/
  | ldI (nnn : BitVec 12)
  /-- row 21, `Bnnn`, `JP V0, addr` -/
  | jpV0 (nnn : BitVec 12)
  /-- row 22, `Cxkk`, `RND Vx, byte` -/
  | rnd (x : RegName) (kk : Byte)
  /-- row 23, `Dxyn`, `DRW Vx, Vy, nibble` -/
  | drw (x y : RegName) (n : BitVec 4)
  /-- row 24, `Ex9E`, `SKP Vx` -/
  | skp (x : RegName)
  /-- row 25, `ExA1`, `SKNP Vx` -/
  | sknp (x : RegName)
  /-- row 26, `Fx07`, `LD Vx, DT` -/
  | ldVxDt (x : RegName)
  /-- row 27, `Fx0A`, `LD Vx, K` -/
  | ldVxK (x : RegName)
  /-- row 28, `Fx15`, `LD DT, Vx` -/
  | ldDtVx (x : RegName)
  /-- row 29, `Fx18`, `LD ST, Vx` -/
  | ldStVx (x : RegName)
  /-- row 30, `Fx1E`, `ADD I, Vx` -/
  | addIVx (x : RegName)
  /-- row 31, `Fx29`, `LD F, Vx` -/
  | ldFVx (x : RegName)
  /-- row 32, `Fx33`, `LD B, Vx` -/
  | ldBVx (x : RegName)
  /-- row 33, `Fx55`, `LD [I], Vx` -/
  | ldMemVx (x : RegName)
  /-- row 34, `Fx65`, `LD Vx, [I]` -/
  | ldVxMem (x : RegName)
  deriving DecidableEq, Repr

/-- The mnemonics of R103, and the data directive `DW` of R111. -/
inductive Mnemonic where
  | cls | ret | jp | call | se | sne | ld | add | or | and | xor | sub | shr | subn | shl
  | rnd | drw | skp | sknp | dw
  deriving DecidableEq, Repr

/-- One operand of the textual form (R109). -/
inductive Operand where
  /-- `Vx`, `Vy` -/
  | reg (r : RegName)
  /-- `addr` -/
  | addr (nnn : BitVec 12)
  /-- `byte` -/
  | byte (kk : Byte)
  /-- `nibble` -/
  | nibble (n : BitVec 4)
  /-- the raw word of `DW` -/
  | word (w : Word)
  /-- the keyword `I` -/
  | kwI
  /-- the keyword `DT` -/
  | kwDT
  /-- the keyword `ST` -/
  | kwST
  /-- the keyword `K` -/
  | kwK
  /-- the keyword `F` -/
  | kwF
  /-- the keyword `B` -/
  | kwB
  /-- the keyword `[I]` -/
  | kwMemI
  deriving DecidableEq, Repr

/-- An assembler term: a mnemonic with its operands in the order of R103's column. -/
structure Asm where
  mnemonic : Mnemonic
  operands : List Operand
  deriving DecidableEq, Repr

end Sys2Proof
end

