-- ==== Sys2Proof/WellFormed.lean ====
section
/-! DEFINITION. What is well formed. An `Instr` carries its bounds in its types (a register name is below
16, an immediate has its field's width, R100), so every instruction is well formed. An assembler term is
well formed when its mnemonic and the kinds of its operands select a row of R103, or it is `DW` with a raw
word (R111, R112). A parameter record is well formed when it keeps the relations the spec states between
the parameters (log entry 14). -/

namespace Sys2Proof

/-- Every instruction is well formed: the field widths of R100 are the operands' types. -/
def Instr.wellFormed : Instr → Bool := fun _ => true

/-- The mnemonic and the operand kinds select a row of R103 (R112: "the operand kinds select the row"); the
first operand of `JP V0, addr` is the literal `V0` (R110). -/
def Asm.wellFormed (a : Asm) : Bool :=
  match a.mnemonic, a.operands with
  | .cls, [] => true
  | .ret, [] => true
  | .jp, [.addr _] => true
  | .jp, [.reg r, .addr _] => decide (r = 0)
  | .call, [.addr _] => true
  | .se, [.reg _, .byte _] => true
  | .se, [.reg _, .reg _] => true
  | .sne, [.reg _, .byte _] => true
  | .sne, [.reg _, .reg _] => true
  | .ld, [.reg _, .byte _] => true
  | .ld, [.reg _, .reg _] => true
  | .ld, [.kwI, .addr _] => true
  | .ld, [.reg _, .kwDT] => true
  | .ld, [.reg _, .kwK] => true
  | .ld, [.kwDT, .reg _] => true
  | .ld, [.kwST, .reg _] => true
  | .ld, [.kwF, .reg _] => true
  | .ld, [.kwB, .reg _] => true
  | .ld, [.kwMemI, .reg _] => true
  | .ld, [.reg _, .kwMemI] => true
  | .add, [.reg _, .byte _] => true
  | .add, [.reg _, .reg _] => true
  | .add, [.kwI, .reg _] => true
  | .or, [.reg _, .reg _] => true
  | .and, [.reg _, .reg _] => true
  | .xor, [.reg _, .reg _] => true
  | .sub, [.reg _, .reg _] => true
  | .shr, [.reg _, .reg _] => true
  | .subn, [.reg _, .reg _] => true
  | .shl, [.reg _, .reg _] => true
  | .rnd, [.reg _, .byte _] => true
  | .drw, [.reg _, .reg _, .nibble _] => true
  | .skp, [.reg _] => true
  | .sknp, [.reg _] => true
  | .dw, [.word _] => true
  | _, _ => false

/-- The relations between parameters that the spec states or uses: memory is smaller than 2^16 bytes
(90_conflicts.md C9) and holds the entry word; the font lies in the reserved low region (R8, R79); and
`8 <= DISP_W`, `15 <= DISP_H` (R221, corner cases). -/
def Params.wellFormed (p : Params) : Bool :=
  decide (p.memSize < 65536) && decide (p.entry + 2 ≤ p.memSize) &&
  decide (p.fontBase + 16 * p.glyphBytes ≤ p.entry) && decide (8 ≤ p.dispW) && decide (15 ≤ p.dispH)

end Sys2Proof
end

