-- ==== Sys2Proof/Decode.lean ====
section
/-! DEFINITION. The decode ROM (spec/30_encoding.md R100 to R108) as a total function from words, and after
it the encoder written from the same table (R112). The decoder reads `w[15:12]` first and then the
disambiguating field (R104); `none` is `INVALID` (R105). `rom` is the table of R103 itself, row by row. -/

namespace Sys2Proof

/-- `w[15:12]`, the family (R100). -/
def opField (w : Word) : BitVec 4 := w.extractLsb' 12 4

/-- `w[11:8]`, the first register index (R100). -/
def xField (w : Word) : RegName := (w.extractLsb' 8 4).toFin

/-- `w[7:4]`, the second register index (R100). -/
def yField (w : Word) : RegName := (w.extractLsb' 4 4).toFin

/-- `w[3:0]`, the nibble (R100). -/
def nField (w : Word) : BitVec 4 := w.extractLsb' 0 4

/-- `w[7:0]`, the byte immediate (R100). -/
def kkField (w : Word) : Byte := w.extractLsb' 0 8

/-- `w[11:0]`, the address immediate (R100). -/
def nnnField (w : Word) : BitVec 12 := w.extractLsb' 0 12

/-- Family 8: the nibble `n` selects the row (R103 rows 10 to 18, R104). -/
def decodeFamily8 (x y : RegName) (n : BitVec 4) : Option Instr :=
  match n.toNat with
  | 0x0 => some (.ldReg x y)
  | 0x1 => some (.orReg x y)
  | 0x2 => some (.andReg x y)
  | 0x3 => some (.xorReg x y)
  | 0x4 => some (.addReg x y)
  | 0x5 => some (.subReg x y)
  | 0x6 => some (.shr x y)
  | 0x7 => some (.subnReg x y)
  | 0xE => some (.shl x y)
  | _ => none

/-- Family E: the byte `kk` selects the row (R103 rows 24 and 25, R104). -/
def decodeFamilyE (x : RegName) (kk : Byte) : Option Instr :=
  match kk.toNat with
  | 0x9E => some (.skp x)
  | 0xA1 => some (.sknp x)
  | _ => none

/-- Family F: the byte `kk` selects the row (R103 rows 26 to 34, R104). -/
def decodeFamilyF (x : RegName) (kk : Byte) : Option Instr :=
  match kk.toNat with
  | 0x07 => some (.ldVxDt x)
  | 0x0A => some (.ldVxK x)
  | 0x15 => some (.ldDtVx x)
  | 0x18 => some (.ldStVx x)
  | 0x1E => some (.addIVx x)
  | 0x29 => some (.ldFVx x)
  | 0x33 => some (.ldBVx x)
  | 0x55 => some (.ldMemVx x)
  | 0x65 => some (.ldVxMem x)
  | _ => none

/-- The decode ROM (R103, R104): the instruction a word stands for, or `none` for `INVALID` (R105). -/
def decode (w : Word) : Option Instr :=
  match (opField w).toNat with
  | 0x0 => if w = 0x00E0#16 then some .cls else if w = 0x00EE#16 then some .ret else none
  | 0x1 => some (.jp (nnnField w))
  | 0x2 => some (.call (nnnField w))
  | 0x3 => some (.seByte (xField w) (kkField w))
  | 0x4 => some (.sneByte (xField w) (kkField w))
  | 0x5 => if nField w = 0#4 then some (.seReg (xField w) (yField w)) else none
  | 0x6 => some (.ldByte (xField w) (kkField w))
  | 0x7 => some (.addByte (xField w) (kkField w))
  | 0x8 => decodeFamily8 (xField w) (yField w) (nField w)
  | 0x9 => if nField w = 0#4 then some (.sneReg (xField w) (yField w)) else none
  | 0xA => some (.ldI (nnnField w))
  | 0xB => some (.jpV0 (nnnField w))
  | 0xC => some (.rnd (xField w) (kkField w))
  | 0xD => some (.drw (xField w) (yField w) (nField w))
  | 0xE => decodeFamilyE (xField w) (kkField w)
  | _ => decodeFamilyF (xField w) (kkField w)

/-- An instruction word from its two bytes, the first byte the more significant (R75). -/
def wordOfBytes (hi lo : Byte) : Word := hi ++ lo

/-- The two bytes of a word in the order memory holds them (R75). -/
def bytesOfWord (w : Word) : List Byte := [w.extractLsb' 8 8, w.extractLsb' 0 8]

/-- Decoding a byte sequence: one instruction from its first two bytes and the rest (R100, R107); `none`
where fewer than two bytes stand or the word is `INVALID`. -/
def decodeBytes : List Byte → Option (Instr × List Byte)
  | hi :: lo :: rest => (decode (wordOfBytes hi lo)).map (fun i => (i, rest))
  | _ => none

/-- The table's numbering: bit 0 is the least significant bit of the one 16-bit word; the bits above
`nbits` are 0. -/
def tableWord (nbits w : Nat) : Word := BitVec.ofNat 16 (w % 2 ^ nbits)

/-- The instruction the decoder reads from a word given as spec/opcode_table.json numbers its bits. -/
def decodeTableWord (nbits w : Nat) : Option Instr :=
  (decodeBytes (bytesOfWord (tableWord nbits w))).map Prod.fst

/-! The encoder (R112): "the row's `match` OR-ed with each field value placed at its bits". -/

/-- Format `NNN` (R102). -/
def packNNN (op : BitVec 4) (nnn : BitVec 12) : Word := op ++ nnn

/-- Format `XKK`, and format `X` with its sub-function byte (R102). -/
def packXKK (op : BitVec 4) (x : RegName) (kk : Byte) : Word := op ++ ((BitVec.ofFin x : BitVec 4) ++ kk)

/-- Format `XYN`, and format `XY` with its sub-function nibble (R102). -/
def packXYN (op : BitVec 4) (x y : RegName) (n : BitVec 4) : Word :=
  op ++ ((BitVec.ofFin x : BitVec 4) ++ ((BitVec.ofFin y : BitVec 4) ++ n))

/-- The word of an instruction (R103, R112). -/
def encode : Instr → Word
  | .cls => 0x00E0#16
  | .ret => 0x00EE#16
  | .jp nnn => packNNN 0x1#4 nnn
  | .call nnn => packNNN 0x2#4 nnn
  | .seByte x kk => packXKK 0x3#4 x kk
  | .sneByte x kk => packXKK 0x4#4 x kk
  | .seReg x y => packXYN 0x5#4 x y 0x0#4
  | .ldByte x kk => packXKK 0x6#4 x kk
  | .addByte x kk => packXKK 0x7#4 x kk
  | .ldReg x y => packXYN 0x8#4 x y 0x0#4
  | .orReg x y => packXYN 0x8#4 x y 0x1#4
  | .andReg x y => packXYN 0x8#4 x y 0x2#4
  | .xorReg x y => packXYN 0x8#4 x y 0x3#4
  | .addReg x y => packXYN 0x8#4 x y 0x4#4
  | .subReg x y => packXYN 0x8#4 x y 0x5#4
  | .shr x y => packXYN 0x8#4 x y 0x6#4
  | .subnReg x y => packXYN 0x8#4 x y 0x7#4
  | .shl x y => packXYN 0x8#4 x y 0xE#4
  | .sneReg x y => packXYN 0x9#4 x y 0x0#4
  | .ldI nnn => packNNN 0xA#4 nnn
  | .jpV0 nnn => packNNN 0xB#4 nnn
  | .rnd x kk => packXKK 0xC#4 x kk
  | .drw x y n => packXYN 0xD#4 x y n
  | .skp x => packXKK 0xE#4 x 0x9E#8
  | .sknp x => packXKK 0xE#4 x 0xA1#8
  | .ldVxDt x => packXKK 0xF#4 x 0x07#8
  | .ldVxK x => packXKK 0xF#4 x 0x0A#8
  | .ldDtVx x => packXKK 0xF#4 x 0x15#8
  | .ldStVx x => packXKK 0xF#4 x 0x18#8
  | .addIVx x => packXKK 0xF#4 x 0x1E#8
  | .ldFVx x => packXKK 0xF#4 x 0x29#8
  | .ldBVx x => packXKK 0xF#4 x 0x33#8
  | .ldMemVx x => packXKK 0xF#4 x 0x55#8
  | .ldVxMem x => packXKK 0xF#4 x 0x65#8

/-- The table of R103, row by row: (match, mask). Row `k` of the table is element `k - 1`. -/
def rom : List (Word × Word) :=
  [(0x00E0#16, 0xFFFF#16), (0x00EE#16, 0xFFFF#16), (0x1000#16, 0xF000#16), (0x2000#16, 0xF000#16),
   (0x3000#16, 0xF000#16), (0x4000#16, 0xF000#16), (0x5000#16, 0xF00F#16), (0x6000#16, 0xF000#16),
   (0x7000#16, 0xF000#16), (0x8000#16, 0xF00F#16), (0x8001#16, 0xF00F#16), (0x8002#16, 0xF00F#16)] ++
  [(0x8003#16, 0xF00F#16), (0x8004#16, 0xF00F#16), (0x8005#16, 0xF00F#16), (0x8006#16, 0xF00F#16),
   (0x8007#16, 0xF00F#16), (0x800E#16, 0xF00F#16), (0x9000#16, 0xF00F#16), (0xA000#16, 0xF000#16),
   (0xB000#16, 0xF000#16), (0xC000#16, 0xF000#16), (0xD000#16, 0xF000#16), (0xE09E#16, 0xF0FF#16)] ++
  [(0xE0A1#16, 0xF0FF#16), (0xF007#16, 0xF0FF#16), (0xF00A#16, 0xF0FF#16), (0xF015#16, 0xF0FF#16),
   (0xF018#16, 0xF0FF#16), (0xF01E#16, 0xF0FF#16), (0xF029#16, 0xF0FF#16), (0xF033#16, 0xF0FF#16),
   (0xF055#16, 0xF0FF#16), (0xF065#16, 0xF0FF#16)]

/-- The number of an instruction's row in the table of R103. -/
def Instr.row : Instr → Nat
  | .cls => 1
  | .ret => 2
  | .jp _ => 3
  | .call _ => 4
  | .seByte _ _ => 5
  | .sneByte _ _ => 6
  | .seReg _ _ => 7
  | .ldByte _ _ => 8
  | .addByte _ _ => 9
  | .ldReg _ _ => 10
  | .orReg _ _ => 11
  | .andReg _ _ => 12
  | .xorReg _ _ => 13
  | .addReg _ _ => 14
  | .subReg _ _ => 15
  | .shr _ _ => 16
  | .subnReg _ _ => 17
  | .shl _ _ => 18
  | .sneReg _ _ => 19
  | .ldI _ => 20
  | .jpV0 _ => 21
  | .rnd _ _ => 22
  | .drw _ _ _ => 23
  | .skp _ => 24
  | .sknp _ => 25
  | .ldVxDt _ => 26
  | .ldVxK _ => 27
  | .ldDtVx _ => 28
  | .ldStVx _ => 29
  | .addIVx _ => 30
  | .ldFVx _ => 31
  | .ldBVx _ => 32
  | .ldMemVx _ => 33
  | .ldVxMem _ => 34

/-- A word matches a row of the table: `(w AND mask) = match` (R103). -/
def matchesRow (w : Word) (row : Word × Word) : Bool := w &&& row.2 == row.1

end Sys2Proof
end

