-- ==== Sys2Proof/Machine/Parameters.lean ====
section
/-! DEFINITION. The conventional values of the parameters (spec/00_scope.md R7, the column "value"). -/

namespace Sys2Proof.Machine

/-- The defaults of R7: D1, D2, D3, D4, D7, D9, D11, D12, D14, D18. -/
def conventionalParams : Params :=
  { memSize := 4096
    entry := 0x200
    fontBase := 0x000
    glyphBytes := 5
    dispW := 64
    dispH := 32
    shiftSource := .vx
    vfResetOnLogic := false
    jumpOffsetReg := .v0
    loadStoreIIncrement := false
    fontDigitMode := .lowNibble
    keyWaitTrigger := .level }

end Sys2Proof.Machine
end

