-- ==== Sys2Proof/Machine/State.lean ====
section
/-! DEFINITION. The state of the unit as plain data (spec/10_state.md R30 to R45, spec/20_memory.md R70), the
reasons a step can stop, and the state right after construction and reset (R45, R380). -/

namespace Sys2Proof.Machine

/-- The kinds of a fatal engine error, with `none` for "no fault" (R300). -/
inductive FaultKind where
  | none
  | invalidOpcode
  | stackOverflow
  | stackUnderflow
  | outOfBounds
  | invalidKey
  deriving DecidableEq, Repr

/-- The fault latch `FAULT` (R42). -/
structure FaultLatch where
  valid : Bool
  kind : FaultKind
  pc : Word
  word : Word
  deriving DecidableEq, Repr

/-- The run mode `MODE` (R41). -/
inductive RunMode where
  | halted
  | running
  | stepping
  deriving DecidableEq, Repr

/-- A value of `State` is everything the unit holds, and two fields of the model's own: `params`, which
nothing changes (log entry 1), and `rngDraws`, which counts the draws from the `RNG` oracle (log entry 2). -/
structure State where
  /-- `V[0]` to `V[15]`; `V[15]` is VF (R30, R31). -/
  v : Vector Byte 16
  /-- The index register `I` (R32). -/
  i : Word
  /-- The program counter (R33). -/
  pc : Word
  /-- The stack pointer: the number of live entries of the call stack (R35). -/
  sp : Byte
  /-- The call stack `S[0]` to `S[15]` (R34). -/
  stack : Vector Word 16
  /-- The delay timer `DT` (R36). -/
  dt : Byte
  /-- The sound timer `ST` (R36). -/
  st : Byte
  /-- The display surface `FB`: `DISP_H` rows of `DISP_W` pixels, row 0 the top, column 0 the left (R37). -/
  fb : List (List Bool)
  /-- The input latch `KEY[0]` to `KEY[15]` (R38). -/
  key : Vector Bool 16
  /-- `WAIT_ARMED` (R39). -/
  waitArmed : Bool
  /-- `KEY_EVENTS`, bit `k` for key `k` (R39). -/
  keyEvents : Vector Bool 16
  /-- The breakpoint set `BP`, its members in strictly rising order (R40, log entry 11). -/
  bp : List Word
  /-- The run mode `MODE` (R41). -/
  mode : RunMode
  /-- The fault latch `FAULT` (R42). -/
  fault : FaultLatch
  /-- Memory `M`, in canonical form over its construction contents (R70, `Memory.wf`). -/
  mem : List Host.Cell
  /-- The implementation parameters (R7; the model's own field, log entry 1). -/
  params : Params
  /-- How many bytes have been drawn from the `RNG` oracle (the model's own field, log entry 2). -/
  rngDraws : Nat
  deriving DecidableEq, Repr

/-- The reasons a step can stop the model. The unit's own faults are NOT among them: they are next states
with the fault latch set (R301, log entry 4). -/
inductive Fault where
  /-- Raised by `CALL` when `sp > 16` and by `RET` when `sp > 16`: the stack entry `S[sp]` or `S[sp - 1]`
  does not exist, because the stack has 16 entries (R34). Safe: R35 says these values of `sp` are never
  reached, and the model stops rather than choose an effect (log entry 5). -/
  | noSuchStackEntry
  deriving DecidableEq, Repr

/-- The reasons the model gives an instruction no meaning. -/
inductive Refusal where
  /-- Answered by an arm of `exec` whose instruction has no meaning yet; no arm answers it in this model.
  Safe: a claim about that instruction would be unprovable. -/
  | notModelled (mnemonic : String)
  deriving DecidableEq, Repr

/-- `FAULT` with nothing latched: "all 0" (R45). -/
def FaultLatch.clear : FaultLatch := { valid := false, kind := .none, pc := 0, word := 0 }

/-- A display surface with every pixel unset (R45). -/
def blankDisplay (p : Params) : List (List Bool) := List.replicate p.dispH (List.replicate p.dispW false)

/-- The unit right after construction with given parameters (R380; R45, column "at construction"). -/
def State.construct (p : Params) : State :=
  { v := Vector.replicate 16 0
    i := 0
    pc := BitVec.ofNat 16 p.entry
    sp := 0
    stack := Vector.replicate 16 0
    dt := 0
    st := 0
    fb := blankDisplay p
    key := Vector.replicate 16 false
    waitArmed := false
    keyEvents := Vector.replicate 16 false
    bp := []
    mode := .halted
    fault := .clear
    mem := []
    params := p
    rngDraws := 0 }

/-- The machine right after reset: the constructed unit with the conventional parameters, on which the
`RESET` command changes nothing (R45; log entry 15). -/
def State.reset : State := State.construct conventionalParams

end Sys2Proof.Machine
end

