-- ==== Sys2Proof/Machine/Operands.lean ====
section
/-! DEFINITION. Every operand form the spec gives an instruction: zero extension, the operands the
parameters select, the font address, the decimal digits, and 8-bit results computed exactly and then
reduced (spec/00_scope.md R10, spec/42_alu.md, spec/43_index_memory.md). -/

namespace Sys2Proof.Machine

/-- `zext_16(nnn)` (R10, R101). -/
def zext16 (nnn : BitVec 12) : Word := nnn.setWidth 16

/-- `(a + b) mod 2^8` (R171, R176). -/
def sum8 (a b : Byte) : Byte := BitVec.ofNat 8 (a.toNat + b.toNat)

/-- `(a - b) mod 2^8`, the integer difference reduced (R177, R179). -/
def diff8 (a b : Byte) : Byte := BitVec.ofInt 8 ((a.toNat : Int) - (b.toNat : Int))

/-- `s >> 1` (R178). -/
def half8 (s : Byte) : Byte := s >>> 1

/-- `(s << 1) mod 2^8` (R180). -/
def double8 (s : Byte) : Byte := s <<< 1

/-- The value `SHR` and `SHL` shift: `a` = `V[x]` or `b` = `V[y]`, as `SHIFT_SOURCE` says (R178, R180). -/
def shiftOperand (p : Params) (a b : Byte) : Byte :=
  match p.shiftSource with
  | .vx => a
  | .vy => b

/-- The register `JP V0, addr` adds, as `JUMP_OFFSET_REG` says (R157). -/
def jumpOffsetReg (p : Params) (nnn : BitVec 12) : RegName :=
  match p.jumpOffsetReg with
  | .v0 => 0
  | .vx => (nnn.extractLsb' 8 4).toFin

/-- `(zext_16(nnn) + V[r]) mod 2^16` (R157). -/
def jumpTarget (nnn : BitVec 12) (offset : Byte) : Word := BitVec.ofNat 16 (nnn.toNat + offset.toNat)

/-- The digit `LD F, Vx` names, as `FONT_DIGIT_MODE` says (R202). -/
def fontDigit (p : Params) (value : Byte) : Nat :=
  match p.fontDigitMode with
  | .lowNibble => (value &&& 0x0F).toNat
  | .full => value.toNat

/-- `(FONT_BASE + GLYPH_BYTES * d) mod 2^16` (R202). -/
def glyphAddress (p : Params) (d : Nat) : Word := BitVec.ofNat 16 (p.fontBase + p.glyphBytes * d)

/-- `(I + V[x]) mod 2^16` (R201). -/
def indexSum (i : Word) (value : Byte) : Word := BitVec.ofNat 16 (i.toNat + value.toNat)

/-- `I` after `LD [I], Vx` or `LD Vx, [I]` moved `count` bytes, as `LOADSTORE_I_INCREMENT` says (R204, R205). -/
def indexAfterBlock (p : Params) (i : Word) (count : Nat) : Word :=
  if p.loadStoreIIncrement then BitVec.ofNat 16 (i.toNat + count) else i

/-- The hundreds, tens and ones digits of a value, in that order (R203). -/
def decimalDigits (value : Byte) : List Byte :=
  [BitVec.ofNat 8 (value.toNat / 100), BitVec.ofNat 8 (value.toNat / 10 % 10), BitVec.ofNat 8 (value.toNat % 10)]

/-- `r AND kk`, the result of `RND` for a drawn byte `r` (R181). -/
def maskedDraw (r kk : Byte) : Byte := r &&& kk

end Sys2Proof.Machine
end

