-- ==== Sys2Proof/Machine/Flags.lean ====
section
/-! DEFINITION. Every value an instruction writes into VF as a flag (spec/10_state.md R31, spec/42_alu.md,
spec/44_display.md R221). -/

namespace Sys2Proof.Machine

/-- `bool(c)` as a byte (R10). -/
def boolByte (c : Bool) : Byte := if c then 1 else 0

/-- `bool(a + b > 255)`, the carry of `ADD Vx, Vy` (R176). -/
def carryFlag (a b : Byte) : Byte := boolByte (decide (a.toNat + b.toNat > 255))

/-- `bool(a >= b)`, the not-borrow of `a - b` (R177; R179 with the operands exchanged). -/
def notBorrowFlag (a b : Byte) : Byte := boolByte (decide (a.toNat ≥ b.toNat))

/-- `s AND 0x01`, the bit `SHR` shifts out (R178). -/
def shiftRightFlag (s : Byte) : Byte := s &&& 0x01

/-- `(s >> 7) AND 0x01`, the bit `SHL` shifts out (R180). -/
def shiftLeftFlag (s : Byte) : Byte := (s >>> 7) &&& 0x01

/-- The collision flag of `DRW` (R221). -/
def collisionFlag (collide : Bool) : Byte := boolByte collide

end Sys2Proof.Machine
end

