-- ==== Sys2Proof/Machine/Memory.lean ====
section
/-! DEFINITION. The memory array (spec/20_memory.md R70 to R74, R79, R80): a list of (address, byte) pairs in
one canonical form, over the contents memory has at construction (R380). An address that is not listed
reads as its construction byte: a font row or 0. -/

namespace Sys2Proof.Machine

/-- The built-in font (R80): the five rows of each digit's glyph, bit 7 the leftmost pixel. -/
def fontGlyphs : List (List Byte) :=
  [[0xF0, 0x90, 0x90, 0x90, 0xF0], [0x20, 0x60, 0x20, 0x20, 0x70],
   [0xF0, 0x10, 0xF0, 0x80, 0xF0], [0xF0, 0x10, 0xF0, 0x10, 0xF0],
   [0x90, 0x90, 0xF0, 0x10, 0x10], [0xF0, 0x80, 0xF0, 0x10, 0xF0],
   [0xF0, 0x80, 0xF0, 0x90, 0xF0], [0xF0, 0x10, 0x20, 0x40, 0x40]] ++
  [[0xF0, 0x90, 0xF0, 0x90, 0xF0], [0xF0, 0x90, 0xF0, 0x10, 0xF0],
   [0xF0, 0x90, 0xF0, 0x90, 0x90], [0xE0, 0x90, 0xE0, 0x90, 0xE0],
   [0xF0, 0x80, 0x80, 0x80, 0xF0], [0xE0, 0x90, 0x90, 0x90, 0xE0],
   [0xF0, 0x80, 0xF0, 0x80, 0xF0], [0xF0, 0x80, 0xF0, 0x80, 0x80]]

/-- Row `r` of the glyph of digit `d` (R80); 0 past the font and past a glyph's five rows. -/
def glyphRow (d r : Nat) : Byte := (fontGlyphs.getD d []).getD r 0

/-- What memory holds at construction (R80, R380), and so what an unlisted address reads as: row `r` of
glyph `d` at `FONT_BASE + GLYPH_BYTES*d + r`, and 0 everywhere else (log entries 6 and 7). -/
def initialByte (p : Params) (a : Nat) : Byte :=
  if a < p.fontBase then 0
  else glyphRow ((a - p.fontBase) / p.glyphBytes) ((a - p.fontBase) % p.glyphBytes)

/-- The byte at an address: its entry, or the construction byte. -/
def Memory.get (p : Params) : List Host.Cell → Nat → Byte
  | [], a => initialByte p a
  | (b, v) :: rest, a => if b = a then v else Memory.get p rest a

/-- Storing one byte, in canonical form: entries stay in rising address order, and the construction byte is
never listed. -/
def Memory.put (p : Params) : List Host.Cell → Nat → Byte → List Host.Cell
  | [], a, v => if v = initialByte p a then [] else [(a, v)]
  | (b, w) :: rest, a, v =>
    if a < b then (if v = initialByte p a then (b, w) :: rest else (a, v) :: (b, w) :: rest)
    else if a = b then (if v = initialByte p a then rest else (a, v) :: rest)
    else (b, w) :: Memory.put p rest a v

/-- Storing a sequence of bytes at ascending addresses (R76, D43). -/
def Memory.putAll (p : Params) (m : List Host.Cell) (a : Nat) : List Byte → List Host.Cell
  | [] => m
  | v :: vs => Memory.putAll p (Memory.put p m a v) (a + 1) vs

/-- The canonical form above a lower bound: addresses strictly rising, inside memory (R70), and no entry
equal to what an unlisted address reads as. -/
def Memory.wfFrom (p : Params) : Nat → List Host.Cell → Bool
  | _, [] => true
  | lo, (a, v) :: rest =>
    decide (lo ≤ a) && decide (a < p.memSize) && decide (v ≠ initialByte p a) && Memory.wfFrom p (a + 1) rest

/-- The canonical form of memory. -/
def Memory.wf (p : Params) (m : List Host.Cell) : Bool := Memory.wfFrom p 0 m

end Sys2Proof.Machine
end

