-- ==== Sys2Proof/Machine/Ops.lean ====
section
/-! DEFINITION. The named operations over the state: the primitives of spec/00_scope.md R11, one function
each, and taking a fault (spec/60_exceptions.md R301). Every meaning is written over these. -/

namespace Sys2Proof.Machine

/-! ## Registers (R30 to R33) -/

/-- The register VF (R31). -/
def vf : RegName := 15

/-- `V[r]` (R30). -/
def State.reg (s : State) (r : RegName) : Byte := s.v[r.val]

/-- `V[r] <- b` (R30). -/
def State.setReg (s : State) (r : RegName) (b : Byte) : State := { s with v := s.v.set r.val b }

/-- `I <- a` (R32). -/
def State.setI (s : State) (a : Word) : State := { s with i := a }

/-- `pc <- target` (R33). -/
def State.setPc (s : State) (target : Word) : State := { s with pc := target }

/-- The fetch advance: `pc <- (pc + 2) mod 2^16` (R143). -/
def State.advance (s : State) : State := s.setPc (s.pc + 2)

/-- `skip`: `pc <- (pc + 2) mod 2^16` on top of the fetch advance (R148). -/
def State.skip (s : State) : State := s.setPc (s.pc + 2)

/-- `skip` when a condition holds (R153 to R156, R240, R241). -/
def State.skipIf (s : State) (c : Bool) : State := if c then s.skip else s

/-- `pc <- (pc - 2) mod 2^16`: the instruction is executed again (R149). -/
def State.reexecute (s : State) : State := s.setPc (s.pc - 2)

/-! ## The call stack (R34, R35) -/

/-- `STACK_DEPTH` (R7). -/
def stackDepth : Nat := 16

/-- `S[k]` for an entry that exists. -/
def State.stackEntry (s : State) (k : Fin 16) : Word := s.stack[k.val]

/-- `S[sp] <- pc; sp <- sp + 1` for an entry that exists (R152). -/
def State.pushReturn (s : State) (k : Fin 16) : State :=
  { s with stack := s.stack.set k.val s.pc, sp := s.sp + 1 }

/-- `sp <- sp - 1; pc <- S[sp]`, where `k` is the new `sp`; the entry keeps its value (R150). -/
def State.popReturn (s : State) (k : Fin 16) : State :=
  { s with sp := s.sp - 1, pc := s.stackEntry k }

/-! ## Timers (R36) -/

/-- `DT <- b` (R244). -/
def State.setDt (s : State) (b : Byte) : State := { s with dt := b }

/-- `ST <- b` (R245). -/
def State.setSt (s : State) (b : Byte) : State := { s with st := b }

/-- One decrement, not below 0 (R310). -/
def decrement (b : Byte) : Byte := if b = 0 then 0 else b - 1

/-- Whether the sound timer is non-zero (R311). -/
def State.soundActive (s : State) : Bool := decide (s.st ≠ 0)

/-! ## Memory (R71 to R76) -/

/-- The byte memory holds at an address: the model's read of one byte. -/
def State.byteAt (s : State) (a : Nat) : Byte := Memory.get s.params s.mem a

/-- `CheckRange(a, n)` passes: `a + n <= MEM_SIZE`, or there is no byte to access (R74). -/
def State.inRange (s : State) (a n : Nat) : Bool := decide (n = 0) || decide (a + n ≤ s.params.memSize)

/-- `MemRead(a, 1)`: the byte, or `none` where the access raises `OutOfBounds` (R72). -/
def State.memRead (s : State) (a : Nat) : Option Byte :=
  if a < s.params.memSize then some (s.byteAt a) else none

/-- `MemWrite(a, 1, b)`: the state after the write, or `none` where the access raises `OutOfBounds` (R73). -/
def State.memWrite (s : State) (a : Nat) (b : Byte) : Option State :=
  if a < s.params.memSize then some { s with mem := Memory.put s.params s.mem a b } else none

/-- Reading `n` single bytes at ascending addresses, after the range check (R76). -/
def State.readBlock (s : State) (a n : Nat) : List Byte := (List.range n).map (fun k => s.byteAt (a + k))

/-- Writing single bytes at ascending addresses, after the range check (R76). -/
def State.writeBlock (s : State) (a : Nat) (bytes : List Byte) : State :=
  { s with mem := Memory.putAll s.params s.mem a bytes }

/-- `V[0]` to `V[x]`, the bytes `LD [I], Vx` stores (R204). -/
def State.regsThrough (s : State) (x : RegName) : List Byte := s.v.toList.take (x.val + 1)

/-- `V[k] <- M[a + k]` for `k` in `0 .. x` (R205). -/
def State.loadRegsThrough (s : State) (x : RegName) (a : Nat) : State :=
  { s with v := Vector.ofFn (fun k : RegName => if k.val ≤ x.val then s.byteAt (a + k.val) else s.reg k) }

/-! ## Display (R37, R220, R221) -/

/-- `FB[py][px]`; a place outside the grid reads unset (log entry 10). -/
def pixelAt (fb : List (List Bool)) (px py : Nat) : Bool := (fb.getD py []).getD px false

/-- `FB[py][px] <- FB[py][px] XOR 1`. -/
def flipPixel (fb : List (List Bool)) (px py : Nat) : List (List Bool) :=
  fb.modify py (fun row => row.modify px (fun b => !b))

/-- Bit `7 - c` of a sprite byte, the pixel in column `c` (R221). -/
def spriteBit (row : Byte) (c : Nat) : Bool := row.getLsbD (7 - c)

/-- The display places one sprite byte lands on, left to right: `(px, py)` for each set bit, every
coordinate wrapped (R221). -/
def spriteRowCells (p : Params) (x0 y0 r : Nat) (row : Byte) : List (Nat × Nat) :=
  ((List.range 8).filter (spriteBit row)).map (fun c => ((x0 + c) % p.dispW, (y0 + r) % p.dispH))

/-- The display places a sprite lands on, in the order of R221's loops; `r` is the number of the first
row given. -/
def spriteCells (p : Params) (x0 y0 : Nat) : Nat → List Byte → List (Nat × Nat)
  | _, [] => []
  | r, row :: rows => spriteRowCells p x0 y0 r row ++ spriteCells p x0 y0 (r + 1) rows

/-- Flipping one place, and whether a set pixel was unset (R221). -/
def drawCell (acc : List (List Bool) × Bool) (cell : Nat × Nat) : List (List Bool) × Bool :=
  (flipPixel acc.1 cell.1 cell.2, acc.2 || pixelAt acc.1 cell.1 cell.2)

/-- Flipping the places in order: the surface after, and `collide` (R221). -/
def drawCells (fb : List (List Bool)) (cells : List (Nat × Nat)) : List (List Bool) × Bool :=
  cells.foldl drawCell (fb, false)

/-- The places `DRW Vx, Vy, n` flips, from the operands before any write (R221). -/
def State.spritePlaces (s : State) (x y : RegName) (n : Nat) : List (Nat × Nat) :=
  spriteCells s.params ((s.reg x).toNat % s.params.dispW) ((s.reg y).toNat % s.params.dispH) 0
    (s.readBlock s.i.toNat n)

/-- `FB <- fb`. -/
def State.setFb (s : State) (fb : List (List Bool)) : State := { s with fb := fb }

/-! ## Keys (R38, R39) -/

/-- `KEY[k]`. -/
def State.keyDown (s : State) (k : KeyName) : Bool := s.key[k.val]

/-- The key a byte names, if it names one (R240). -/
def keyNamed (b : Byte) : Option KeyName := if h : b.toNat < 16 then some ⟨b.toNat, h⟩ else none

/-- `min { k | ks[k] = 1 }`, if some bit is set (R243). -/
def lowestKey (ks : Vector Bool 16) : Option KeyName := (List.finRange 16).find? (fun k => ks[k.val])

/-- A key's number as a byte. -/
def keyByte (k : KeyName) : Byte := BitVec.ofNat 8 k.val

/-- No key event. -/
def noEvents : Vector Bool 16 := Vector.replicate 16 false

/-- `WAIT_ARMED <- armed; KEY_EVENTS <- 0` (R243). -/
def State.setWait (s : State) (armed : Bool) : State := { s with waitArmed := armed, keyEvents := noEvents }

/-! ## The oracle (R43, R181) -/

/-- `draw RNG`: the byte the oracle yields. -/
def State.drawnByte (s : State) : Byte := Config.rngByte s.rngDraws

/-- The state after a draw. -/
def State.afterDraw (s : State) : State := { s with rngDraws := s.rngDraws + 1 }

/-! ## Faults (R300, R301) -/

/-- The numeric code of a fault kind (R300, D24). -/
def FaultKind.code : FaultKind → Nat
  | .none => 0
  | .invalidOpcode => 1
  | .stackOverflow => 2
  | .stackUnderflow => 3
  | .outOfBounds => 4
  | .invalidKey => 5

/-- The numeric code of a run mode (R41, D31). -/
def RunMode.code : RunMode → Nat
  | .halted => 0
  | .running => 1
  | .stepping => 2

/-- `latch(kind, a, w)` (R301): taking a fault changes the latch and nothing else; there is no vector, no
handler and no mode change (R303), and no instruction returns from a fault: only `RESET` clears the latch
(R304, `State.resetUnit`). -/
def State.latch (s : State) (kind : FaultKind) (a w : Word) : State :=
  { s with fault := { valid := true, kind := kind, pc := a, word := w } }

/-- `raise Fault(kind)` by an instruction (R11, R301): the latch records `pc_i`, which is `pc - 2` because
the fetch advance has happened (R143), and the instruction's own word (log entry 3). -/
def State.raise (s : State) (kind : FaultKind) (instr : Instr) : State := s.latch kind (s.pc - 2) (encode instr)

end Sys2Proof.Machine
end

