-- ==== Sys2Proof/Machine/Alu.lean ====
section
/-! DEFINITION. Register load, arithmetic, logic and random (spec/42_alu.md R170 to R182). All operands are
read before any write (R146); where a result register and VF are both written, the result is written first
and VF second (R182). -/

namespace Sys2Proof.Machine

/-- Writing a result and then a flag (R146, R182). -/
def State.setResultFlag (s : State) (x : RegName) (result flag : Byte) : State := (s.setReg x result).setReg vf flag

/-- Writing a logic result, and clearing VF after it when `VF_RESET_ON_LOGIC` holds (R173). -/
def State.setLogic (s : State) (x : RegName) (result : Byte) : State :=
  if s.params.vfResetOnLogic then s.setResultFlag x result 0 else s.setReg x result

/-- The value `SHR Vx, Vy` and `SHL Vx, Vy` shift (R178, R180). -/
def State.shifted (s : State) (x y : RegName) : Byte := shiftOperand s.params (s.reg x) (s.reg y)

/-- `LD Vx, byte` (R170). -/
def execLdByte (x : RegName) (kk : Byte) (s : State) : Host.Outcome State Fault Refusal := .next (s.setReg x kk)

/-- `ADD Vx, byte` (R171): no flag on this form. -/
def execAddByte (x : RegName) (kk : Byte) (s : State) : Host.Outcome State Fault Refusal :=
  .next (s.setReg x (sum8 (s.reg x) kk))

/-- `LD Vx, Vy` (R172). -/
def execLdReg (x y : RegName) (s : State) : Host.Outcome State Fault Refusal := .next (s.setReg x (s.reg y))

/-- `OR Vx, Vy` (R173). -/
def execOrReg (x y : RegName) (s : State) : Host.Outcome State Fault Refusal :=
  .next (s.setLogic x (s.reg x ||| s.reg y))

/-- `AND Vx, Vy` (R174). -/
def execAndReg (x y : RegName) (s : State) : Host.Outcome State Fault Refusal :=
  .next (s.setLogic x (s.reg x &&& s.reg y))

/-- `XOR Vx, Vy` (R175). -/
def execXorReg (x y : RegName) (s : State) : Host.Outcome State Fault Refusal :=
  .next (s.setLogic x (s.reg x ^^^ s.reg y))

/-- `ADD Vx, Vy` (R176). -/
def execAddReg (x y : RegName) (s : State) : Host.Outcome State Fault Refusal :=
  .next (s.setResultFlag x (sum8 (s.reg x) (s.reg y)) (carryFlag (s.reg x) (s.reg y)))

/-- `SUB Vx, Vy` (R177). -/
def execSubReg (x y : RegName) (s : State) : Host.Outcome State Fault Refusal :=
  .next (s.setResultFlag x (diff8 (s.reg x) (s.reg y)) (notBorrowFlag (s.reg x) (s.reg y)))

/-- `SUBN Vx, Vy` (R179). -/
def execSubnReg (x y : RegName) (s : State) : Host.Outcome State Fault Refusal :=
  .next (s.setResultFlag x (diff8 (s.reg y) (s.reg x)) (notBorrowFlag (s.reg y) (s.reg x)))

/-- `SHR Vx, Vy` (R178). -/
def execShr (x y : RegName) (s : State) : Host.Outcome State Fault Refusal :=
  .next (s.setResultFlag x (half8 (s.shifted x y)) (shiftRightFlag (s.shifted x y)))

/-- `SHL Vx, Vy` (R180). -/
def execShl (x y : RegName) (s : State) : Host.Outcome State Fault Refusal :=
  .next (s.setResultFlag x (double8 (s.shifted x y)) (shiftLeftFlag (s.shifted x y)))

/-- `RND Vx, byte` (R181): the drawn byte is a free value (log entry 2). -/
def execRnd (x : RegName) (kk : Byte) (s : State) : Host.Outcome State Fault Refusal :=
  .next (s.afterDraw.setReg x (maskedDraw s.drawnByte kk))

end Sys2Proof.Machine
end

