-- ==== Sys2Proof/Machine/ControlFlow.lean ====
section
/-! DEFINITION. The control-flow instructions (spec/41_control_flow.md R150 to R158). On entry `pc` holds
the instruction's address plus 2 (R143). A target is not checked when it is written (R158). -/

namespace Sys2Proof.Machine

/-- `RET` (R150). -/
def execRet (s : State) : Host.Outcome State Fault Refusal :=
  if s.sp.toNat = 0 then .next (s.raise .stackUnderflow .ret)
  else if h : s.sp.toNat - 1 < 16 then .next (s.popReturn ⟨s.sp.toNat - 1, h⟩)
  else .fault .noSuchStackEntry

/-- `JP addr` (R151). -/
def execJp (nnn : BitVec 12) (s : State) : Host.Outcome State Fault Refusal := .next (s.setPc (zext16 nnn))

/-- `CALL addr` (R152). -/
def execCall (nnn : BitVec 12) (s : State) : Host.Outcome State Fault Refusal :=
  if s.sp.toNat = stackDepth then .next (s.raise .stackOverflow (.call nnn))
  else if h : s.sp.toNat < 16 then .next ((s.pushReturn ⟨s.sp.toNat, h⟩).setPc (zext16 nnn))
  else .fault .noSuchStackEntry

/-- `SE Vx, byte` (R153). -/
def execSeByte (x : RegName) (kk : Byte) (s : State) : Host.Outcome State Fault Refusal :=
  .next (s.skipIf (decide (s.reg x = kk)))

/-- `SNE Vx, byte` (R154). -/
def execSneByte (x : RegName) (kk : Byte) (s : State) : Host.Outcome State Fault Refusal :=
  .next (s.skipIf (decide (s.reg x ≠ kk)))

/-- `SE Vx, Vy` (R155). -/
def execSeReg (x y : RegName) (s : State) : Host.Outcome State Fault Refusal :=
  .next (s.skipIf (decide (s.reg x = s.reg y)))

/-- `SNE Vx, Vy` (R156). -/
def execSneReg (x y : RegName) (s : State) : Host.Outcome State Fault Refusal :=
  .next (s.skipIf (decide (s.reg x ≠ s.reg y)))

/-- `JP V0, addr` (R157). -/
def execJpV0 (nnn : BitVec 12) (s : State) : Host.Outcome State Fault Refusal :=
  .next (s.setPc (jumpTarget nnn (s.reg (jumpOffsetReg s.params nnn))))

end Sys2Proof.Machine
end

