-- ==== Sys2Proof/Machine/Display.lean ====
section
/-! DEFINITION. The display instructions (spec/44_display.md R220 to R222). -/

namespace Sys2Proof.Machine

/-- `CLS` (R220). -/
def execCls (s : State) : Host.Outcome State Fault Refusal := .next (s.setFb (blankDisplay s.params))

/-- `DRW Vx, Vy, nibble` (R221): the coordinates and the sprite are read before VF is written (R146). -/
def execDrw (x y : RegName) (n : BitVec 4) (s : State) : Host.Outcome State Fault Refusal :=
  if s.inRange s.i.toNat n.toNat then
    .next ((s.setFb (drawCells s.fb (s.spritePlaces x y n.toNat)).1).setReg vf
      (collisionFlag (drawCells s.fb (s.spritePlaces x y n.toNat)).2))
  else .next (s.raise .outOfBounds (.drw x y n))

end Sys2Proof.Machine
end

