-- ==== Sys2Proof/Machine/IndexMemory.lean ====
section
/-! DEFINITION. The index-register and memory instructions (spec/43_index_memory.md R200 to R205). A byte
range is checked whole before any access; out of bounds, the instruction changes nothing but raises
`OutOfBounds` (R74). -/

namespace Sys2Proof.Machine

/-- `LD I, addr` (R200). -/
def execLdI (nnn : BitVec 12) (s : State) : Host.Outcome State Fault Refusal := .next (s.setI (zext16 nnn))

/-- `ADD I, Vx` (R201): VF is not written. -/
def execAddIVx (x : RegName) (s : State) : Host.Outcome State Fault Refusal :=
  .next (s.setI (indexSum s.i (s.reg x)))

/-- `LD F, Vx` (R202). -/
def execLdFVx (x : RegName) (s : State) : Host.Outcome State Fault Refusal :=
  .next (s.setI (glyphAddress s.params (fontDigit s.params (s.reg x))))

/-- `LD B, Vx` (R203). -/
def execLdBVx (x : RegName) (s : State) : Host.Outcome State Fault Refusal :=
  if s.inRange s.i.toNat 3 then .next (s.writeBlock s.i.toNat (decimalDigits (s.reg x)))
  else .next (s.raise .outOfBounds (.ldBVx x))

/-- `LD [I], Vx` (R204). -/
def execLdMemVx (x : RegName) (s : State) : Host.Outcome State Fault Refusal :=
  if s.inRange s.i.toNat (x.val + 1) then
    .next ((s.writeBlock s.i.toNat (s.regsThrough x)).setI (indexAfterBlock s.params s.i (x.val + 1)))
  else .next (s.raise .outOfBounds (.ldMemVx x))

/-- `LD Vx, [I]` (R205). -/
def execLdVxMem (x : RegName) (s : State) : Host.Outcome State Fault Refusal :=
  if s.inRange s.i.toNat (x.val + 1) then
    .next ((s.loadRegsThrough x s.i.toNat).setI (indexAfterBlock s.params s.i (x.val + 1)))
  else .next (s.raise .outOfBounds (.ldVxMem x))

end Sys2Proof.Machine
end

