-- ==== Sys2Proof/Machine/TimersInput.lean ====
section
/-! DEFINITION. The key-input and timer instructions (spec/45_timers_input.md R240 to R245). -/

namespace Sys2Proof.Machine

/-- `SKP Vx` (R240). -/
def execSkp (x : RegName) (s : State) : Host.Outcome State Fault Refusal :=
  match keyNamed (s.reg x) with
  | none => .next (s.raise .invalidKey (.skp x))
  | some k => .next (s.skipIf (s.keyDown k))

/-- `SKNP Vx` (R241). -/
def execSknp (x : RegName) (s : State) : Host.Outcome State Fault Refusal :=
  match keyNamed (s.reg x) with
  | none => .next (s.raise .invalidKey (.sknp x))
  | some k => .next (s.skipIf (!s.keyDown k))

/-- `LD Vx, DT` (R242). -/
def execLdVxDt (x : RegName) (s : State) : Host.Outcome State Fault Refusal := .next (s.setReg x s.dt)

/-- `LD Vx, K` under `KEYWAIT_TRIGGER = LEVEL` (R243). -/
def keyWaitLevel (x : RegName) (s : State) : State :=
  match lowestKey s.key with
  | some k => s.setReg x (keyByte k)
  | none => s.reexecute

/-- `LD Vx, K` under `KEYWAIT_TRIGGER = EDGE` (R243). -/
def keyWaitEdge (x : RegName) (s : State) : State :=
  if s.waitArmed then
    match lowestKey s.keyEvents with
    | some k => (s.setReg x (keyByte k)).setWait false
    | none => s.reexecute
  else (s.setWait true).reexecute

/-- `LD Vx, K` (R243, R149). -/
def execLdVxK (x : RegName) (s : State) : Host.Outcome State Fault Refusal :=
  match s.params.keyWaitTrigger with
  | .level => .next (keyWaitLevel x s)
  | .edge => .next (keyWaitEdge x s)

/-- `LD DT, Vx` (R244). -/
def execLdDtVx (x : RegName) (s : State) : Host.Outcome State Fault Refusal := .next (s.setDt (s.reg x))

/-- `LD ST, Vx` (R245). -/
def execLdStVx (x : RegName) (s : State) : Host.Outcome State Fault Refusal := .next (s.setSt (s.reg x))

end Sys2Proof.Machine
end

