-- ==== Sys2Proof/Machine/Cycle.lean ====
section
/-! DEFINITION. One fetch-decode-execute cycle (spec/40_execution_cycle.md R140 to R147). -/

namespace Sys2Proof.Machine

/-- A word can be fetched at `pc`: `pc + 1 < MEM_SIZE`, computed exactly (R142, R71). -/
def State.fetchable (s : State) : Bool := decide (s.pc.toNat + 1 < s.params.memSize)

/-- The word at an address, the byte at the address the more significant (R75). -/
def State.wordAt (s : State) (a : Nat) : Word := wordOfBytes (s.byteAt a) (s.byteAt (a + 1))

/-- The word at `pc` (R142). -/
def State.fetchWord (s : State) : Word := s.wordAt s.pc.toNat

/-- The cycle after a successful fetch: the advance, decode, and execute or `InvalidOpcode` (R143 to R145). -/
def State.decodeExecute (s : State) : Host.Outcome State Fault Refusal :=
  match decode s.fetchWord with
  | none => .next (s.advance.latch .invalidOpcode s.pc s.fetchWord)
  | some i => exec i s.advance

/-- `STEP` (R140): with a fault latched nothing happens (R141); a fetch out of bounds latches `OutOfBounds`
and leaves `pc` (R142). -/
def cycle (s : State) : Host.Outcome State Fault Refusal :=
  if s.fault.valid then .next s
  else if s.fetchable then s.decodeExecute
  else .next (s.latch .outOfBounds s.pc 0)

end Sys2Proof.Machine
end

