-- ==== Sys2Proof/Machine/Step.lean ====
section
/-! DEFINITION. One step of the unit: the `STEP` command's effect on the state (spec/40_execution_cycle.md
R140). Its response is `stepResponse` (Machine/Commands.lean). -/

namespace Sys2Proof.Machine

/-- One step (R140). -/
def step (s : State) : Host.Outcome State Fault Refusal := cycle s

/-- The state in which the next step fetches and runs the instruction given: its two bytes stored at `pc`
and `pc + 1`, most significant first (R75), and no fault latched, since a step fetches nothing while one is
(R141). Nothing else changes; where `pc` lies outside memory there is nothing to store to (log entry 8). -/
def State.withFetchWord (s : State) (nbits w : Nat) : State :=
  if s.fetchable then
    { s with
      mem := Memory.putAll s.params s.mem s.pc.toNat (bytesOfWord (tableWord nbits w))
      fault := .clear }
  else s

end Sys2Proof.Machine
end

