-- ==== Sys2Proof/Machine/Disassembler.lean ====
section
/-! DEFINITION. The disassembler ROM: the text of a word (spec/30_encoding.md R109 to R111), read through
the one decode ROM the engine uses (R108), and encoding, its inverse (R112). -/

namespace Sys2Proof.Machine

/-- The mnemonic and operands of an instruction, in the order of R103's column (R110). -/
def asmOfInstr : Instr → Asm
  | .cls => ⟨.cls, []⟩
  | .ret => ⟨.ret, []⟩
  | .jp nnn => ⟨.jp, [.addr nnn]⟩
  | .call nnn => ⟨.call, [.addr nnn]⟩
  | .seByte x kk => ⟨.se, [.reg x, .byte kk]⟩
  | .sneByte x kk => ⟨.sne, [.reg x, .byte kk]⟩
  | .seReg x y => ⟨.se, [.reg x, .reg y]⟩
  | .ldByte x kk => ⟨.ld, [.reg x, .byte kk]⟩
  | .addByte x kk => ⟨.add, [.reg x, .byte kk]⟩
  | .ldReg x y => ⟨.ld, [.reg x, .reg y]⟩
  | .orReg x y => ⟨.or, [.reg x, .reg y]⟩
  | .andReg x y => ⟨.and, [.reg x, .reg y]⟩
  | .xorReg x y => ⟨.xor, [.reg x, .reg y]⟩
  | .addReg x y => ⟨.add, [.reg x, .reg y]⟩
  | .subReg x y => ⟨.sub, [.reg x, .reg y]⟩
  | .shr x y => ⟨.shr, [.reg x, .reg y]⟩
  | .subnReg x y => ⟨.subn, [.reg x, .reg y]⟩
  | .shl x y => ⟨.shl, [.reg x, .reg y]⟩
  | .sneReg x y => ⟨.sne, [.reg x, .reg y]⟩
  | .ldI nnn => ⟨.ld, [.kwI, .addr nnn]⟩
  | .jpV0 nnn => ⟨.jp, [.reg 0, .addr nnn]⟩
  | .rnd x kk => ⟨.rnd, [.reg x, .byte kk]⟩
  | .drw x y n => ⟨.drw, [.reg x, .reg y, .nibble n]⟩
  | .skp x => ⟨.skp, [.reg x]⟩
  | .sknp x => ⟨.sknp, [.reg x]⟩
  | .ldVxDt x => ⟨.ld, [.reg x, .kwDT]⟩
  | .ldVxK x => ⟨.ld, [.reg x, .kwK]⟩
  | .ldDtVx x => ⟨.ld, [.kwDT, .reg x]⟩
  | .ldStVx x => ⟨.ld, [.kwST, .reg x]⟩
  | .addIVx x => ⟨.add, [.kwI, .reg x]⟩
  | .ldFVx x => ⟨.ld, [.kwF, .reg x]⟩
  | .ldBVx x => ⟨.ld, [.kwB, .reg x]⟩
  | .ldMemVx x => ⟨.ld, [.kwMemI, .reg x]⟩
  | .ldVxMem x => ⟨.ld, [.reg x, .kwMemI]⟩

/-- The assembler term of any word: a row of R103, or `DW` and the raw word (R111). -/
def asmOfWord (w : Word) : Asm :=
  match decode w with
  | some i => asmOfInstr i
  | none => ⟨.dw, [.word w]⟩

/-- Encoding from a mnemonic and its operand values (R112): the operand kinds select the row, and the word
is the row's `match` OR-ed with the fields; `none` for a term that selects no row. -/
def assemble (a : Asm) : Option Word :=
  match a.mnemonic, a.operands with
  | .cls, [] => some (encode .cls)
  | .ret, [] => some (encode .ret)
  | .jp, [.addr nnn] => some (encode (.jp nnn))
  | .jp, [.reg r, .addr nnn] => if r = 0 then some (encode (.jpV0 nnn)) else none
  | .call, [.addr nnn] => some (encode (.call nnn))
  | .se, [.reg x, .byte kk] => some (encode (.seByte x kk))
  | .se, [.reg x, .reg y] => some (encode (.seReg x y))
  | .sne, [.reg x, .byte kk] => some (encode (.sneByte x kk))
  | .sne, [.reg x, .reg y] => some (encode (.sneReg x y))
  | .ld, [.reg x, .byte kk] => some (encode (.ldByte x kk))
  | .ld, [.reg x, .reg y] => some (encode (.ldReg x y))
  | .ld, [.kwI, .addr nnn] => some (encode (.ldI nnn))
  | .ld, [.reg x, .kwDT] => some (encode (.ldVxDt x))
  | .ld, [.reg x, .kwK] => some (encode (.ldVxK x))
  | .ld, [.kwDT, .reg x] => some (encode (.ldDtVx x))
  | .ld, [.kwST, .reg x] => some (encode (.ldStVx x))
  | .ld, [.kwF, .reg x] => some (encode (.ldFVx x))
  | .ld, [.kwB, .reg x] => some (encode (.ldBVx x))
  | .ld, [.kwMemI, .reg x] => some (encode (.ldMemVx x))
  | .ld, [.reg x, .kwMemI] => some (encode (.ldVxMem x))
  | .add, [.reg x, .byte kk] => some (encode (.addByte x kk))
  | .add, [.reg x, .reg y] => some (encode (.addReg x y))
  | .add, [.kwI, .reg x] => some (encode (.addIVx x))
  | .or, [.reg x, .reg y] => some (encode (.orReg x y))
  | .and, [.reg x, .reg y] => some (encode (.andReg x y))
  | .xor, [.reg x, .reg y] => some (encode (.xorReg x y))
  | .sub, [.reg x, .reg y] => some (encode (.subReg x y))
  | .shr, [.reg x, .reg y] => some (encode (.shr x y))
  | .subn, [.reg x, .reg y] => some (encode (.subnReg x y))
  | .shl, [.reg x, .reg y] => some (encode (.shl x y))
  | .rnd, [.reg x, .byte kk] => some (encode (.rnd x kk))
  | .drw, [.reg x, .reg y, .nibble n] => some (encode (.drw x y n))
  | .skp, [.reg x] => some (encode (.skp x))
  | .sknp, [.reg x] => some (encode (.sknp x))
  | .dw, [.word w] => some w
  | _, _ => none

/-! ## Spelling (R109, R110) -/

/-- The spelling of a mnemonic. -/
def mnemonicText : Mnemonic → String
  | .cls => "CLS"
  | .ret => "RET"
  | .jp => "JP"
  | .call => "CALL"
  | .se => "SE"
  | .sne => "SNE"
  | .ld => "LD"
  | .add => "ADD"
  | .or => "OR"
  | .and => "AND"
  | .xor => "XOR"
  | .sub => "SUB"
  | .shr => "SHR"
  | .subn => "SUBN"
  | .shl => "SHL"
  | .rnd => "RND"
  | .drw => "DRW"
  | .skp => "SKP"
  | .sknp => "SKNP"
  | .dw => "DW"

/-- The sixteen uppercase hexadecimal digits. -/
def hexDigits : List Char := ['0', '1', '2', '3', '4', '5', '6', '7', '8', '9', 'A', 'B', 'C', 'D', 'E', 'F']

/-- One uppercase hexadecimal digit (R109). -/
def hexDigit (d : BitVec 4) : Char := hexDigits.getD d.toNat '0'

/-- The digit a character is, if it is one. -/
def hexValue (c : Char) : Option (BitVec 4) := (hexDigits.idxOf? c).map (BitVec.ofNat 4)

/-- The characters of an operand (R109): `0x` and exactly as many digits as the field has nibbles. -/
def operandChars : Operand → List Char
  | .reg r => ['V', hexDigit (BitVec.ofFin r)]
  | .nibble n => ['0', 'x', hexDigit n]
  | .byte kk => ['0', 'x', hexDigit (kk.extractLsb' 4 4), hexDigit (kk.extractLsb' 0 4)]
  | .addr nnn =>
    ['0', 'x', hexDigit (nnn.extractLsb' 8 4), hexDigit (nnn.extractLsb' 4 4), hexDigit (nnn.extractLsb' 0 4)]
  | .word w =>
    ['0', 'x', hexDigit (w.extractLsb' 12 4), hexDigit (w.extractLsb' 8 4), hexDigit (w.extractLsb' 4 4),
      hexDigit (w.extractLsb' 0 4)]
  | .kwI => ['I']
  | .kwDT => ['D', 'T']
  | .kwST => ['S', 'T']
  | .kwK => ['K']
  | .kwF => ['F']
  | .kwB => ['B']
  | .kwMemI => ['[', 'I', ']']

/-- The spelling of an operand (R109). -/
def operandText (o : Operand) : String := String.ofList (operandChars o)

/-- The mnemonic a spelling names. -/
def mnemonicOfText (t : String) : Option Mnemonic :=
  [Mnemonic.cls, .ret, .jp, .call, .se, .sne, .ld, .add, .or, .and, .xor, .sub, .shr, .subn, .shl, .rnd, .drw,
    .skp, .sknp, .dw].find? (fun m => mnemonicText m == t)

/-- Reading `0x` and its digits: their number is the operand's kind (R109). -/
def operandOfDigits : List (BitVec 4) → Option Operand
  | [n] => some (.nibble n)
  | [a, b] => some (.byte (a ++ b))
  | [a, b, c] => some (.addr (a ++ (b ++ c)))
  | [a, b, c, d] => some (.word (a ++ (b ++ (c ++ d))))
  | _ => none

/-- The operand a spelling names (R109). -/
def operandOfChars : List Char → Option Operand
  | ['I'] => some .kwI
  | ['D', 'T'] => some .kwDT
  | ['S', 'T'] => some .kwST
  | ['K'] => some .kwK
  | ['F'] => some .kwF
  | ['B'] => some .kwB
  | ['[', 'I', ']'] => some .kwMemI
  | ['V', c] => (hexValue c).map (fun d => .reg d.toFin)
  | '0' :: 'x' :: ds => (ds.mapM hexValue).bind operandOfDigits
  | _ => none

/-- The mnemonic and operand list `DISASSEMBLE` reports (R324). -/
structure Disassembly where
  mnemonic : String
  operands : List String
  deriving DecidableEq, Repr

/-- The spelling of an assembler term. -/
def spellAsm (a : Asm) : Disassembly := ⟨mnemonicText a.mnemonic, a.operands.map operandText⟩

/-- The disassembly of a word (R109 to R111). -/
def disassembleWord (w : Word) : Disassembly := spellAsm (asmOfWord w)

/-- The full text: the mnemonic alone, or the mnemonic, one space, and the operands joined by a comma and
one space (R110). -/
def fullText (d : Disassembly) : String :=
  match d.operands with
  | [] => d.mnemonic
  | first :: rest => d.mnemonic ++ " " ++ rest.foldl (fun t o => t ++ ", " ++ o) first

/-- Re-encoding the reported mnemonic and operands (R112). -/
def reencode (d : Disassembly) : Option Word :=
  match mnemonicOfText d.mnemonic, d.operands.mapM (fun t => operandOfChars t.toList) with
  | some m, some os => assemble ⟨m, os⟩
  | _, _ => none

end Sys2Proof.Machine
end

