-- ==== Sys2Proof/Machine/Commands.lean ====
section
/-! DEFINITION. The command port (spec/00_scope.md R6): every command as one atomic transaction that reads
and writes the state and returns a response (spec/60_exceptions.md R307 to R331, spec/70_reset_and_hazards.md
R381, R382). Commands come one at a time in any order; a run of the unit is a list of them. -/

namespace Sys2Proof.Machine

/-- The commands of R6. -/
inductive Command where
  | reset
  | load (image : List Byte)
  | stepOnce
  | tick
  | setKey (index : Nat) (pressed : Bool)
  | readFb
  | readSound
  | addBp (addr : Word)
  | removeBp (addr : Word)
  | run
  | runSlice (budget : Nat)
  | halt
  | stepInstruction
  | disassemble (addr : Word)
  | dumpRegisters
  | dumpMemory (lo hi : Nat)
  deriving DecidableEq, Repr

/-- The register snapshot (R325). -/
structure Snapshot where
  v : Vector Byte 16
  i : Word
  pc : Word
  sp : Byte
  stack : Vector Word 16
  dt : Byte
  st : Byte
  mode : RunMode
  fault : FaultLatch
  deriving DecidableEq, Repr

/-- The response of a step: `OK` or `EngineError(kind)` (R140). -/
inductive StepResponse where
  | ok
  | engineError (kind : FaultKind)
  deriving DecidableEq, Repr

/-- The responses of R6. -/
inductive Response where
  | ok
  | capacityExceeded
  | invalidKey
  | outOfBounds
  | notRunning
  | keepRunning
  | breakpoint (addr : Word)
  | stepped (response : StepResponse)
  | pixels (grid : List Bool)
  | sound (active : Bool)
  | steppedInstruction (text : Option Disassembly) (snapshot : Snapshot) (response : StepResponse)
  | disassembly (text : Disassembly)
  | registers (snapshot : Snapshot)
  | bytes (dump : List Byte)
  deriving DecidableEq, Repr

/-- The numeric code of an error response: the kind's code for an engine error, 6 for `CapacityExceeded`, and
the codes of `InvalidKey` and `OutOfBounds` (R300, D24); `none` for a response that is no error or has no
code. -/
def Response.errorCode : Response → Option Nat
  | .capacityExceeded => some 6
  | .invalidKey => some FaultKind.invalidKey.code
  | .outOfBounds => some FaultKind.outOfBounds.code
  | .stepped (.engineError k) => some k.code
  | .steppedInstruction _ _ (.engineError k) => some k.code
  | _ => none

/-- The response of a step that left this state: a step faults exactly when it ends with a fault latched
(R140, R141, R301). -/
def stepResponse (after : State) : StepResponse :=
  if after.fault.valid then .engineError after.fault.kind else .ok

/-- The `RESET` command (R381): memory, `KEY` and the model's own fields stay. -/
def State.resetUnit (s : State) : State :=
  { State.construct s.params with mem := s.mem, key := s.key, rngDraws := s.rngDraws }

/-- The `TICK` command (R310). -/
def State.tick (s : State) : State := { s with dt := decrement s.dt, st := decrement s.st }

/-- `SET_KEY` for a key that exists (R314): the latch, and under `EDGE` the event of a new press. -/
def State.setKeyBit (s : State) (k : KeyName) (pressed : Bool) : State :=
  { s with
    key := s.key.set k.val pressed
    keyEvents :=
      if s.params.keyWaitTrigger = .edge ∧ s.keyDown k = false ∧ pressed = true then s.keyEvents.set k.val true
      else s.keyEvents }

/-- Adding an address to a breakpoint set in rising order (R317). -/
def insertAddr (a : Word) : List Word → List Word
  | [] => [a]
  | b :: rest => if a.toNat < b.toNat then a :: b :: rest else if a = b then b :: rest else b :: insertAddr a rest

/-- The breakpoint set after `ADD_BP` or `REMOVE_BP` (R317). -/
def State.setBp (s : State) (bp : List Word) : State := { s with bp := bp }

/-- `MODE <- m` (R318, R321, R322). -/
def State.setMode (s : State) (m : RunMode) : State := { s with mode := m }

/-- The register snapshot (R325). -/
def State.snapshot (s : State) : Snapshot :=
  { v := s.v, i := s.i, pc := s.pc, sp := s.sp, stack := s.stack, dt := s.dt, st := s.st, mode := s.mode, fault := s.fault }

/-- The whole display surface, row-major (R313). -/
def State.pixels (s : State) : List Bool := s.fb.flatten

/-- `DISASSEMBLE(addr)`, or `none` where the word lies outside memory (R324). -/
def State.disassembleAt (s : State) (addr : Word) : Option Disassembly :=
  if addr.toNat + 1 < s.params.memSize then some (disassembleWord (s.wordAt addr.toNat)) else none

/-- `RUN_SLICE` in the mode Running: up to `n` steps under the breakpoint arbiter, which looks at the
post-step `pc` after a step that did not fault (R319, R320, R306). -/
def runSliceSteps : Nat → State → Host.Outcome (Response × State) Fault Refusal
  | 0, s => .next (.keepRunning, s)
  | n + 1, s =>
    match step s with
    | .next t =>
      if t.fault.valid then .next (.stepped (.engineError t.fault.kind), t.setMode .halted)
      else if t.bp.contains t.pc then .next (.breakpoint t.pc, t.setMode .halted)
      else runSliceSteps n t
    | .fault r => .fault r
    | .refused r => .refused r

/-- The `LOAD` command (R382): the image's bytes from `ENTRY`, or no change at all. -/
def commandLoad (image : List Byte) (s : State) : Response × State :=
  if image.length > s.params.progCapacity then (.capacityExceeded, s) else (.ok, s.writeBlock s.params.entry image)

/-- The `STEP` command (R140). -/
def commandStep (s : State) : Host.Outcome (Response × State) Fault Refusal :=
  match step s with
  | .next t => .next (.stepped (stepResponse t), t)
  | .fault r => .fault r
  | .refused r => .refused r

/-- The `SET_KEY` command (R314). -/
def commandSetKey (index : Nat) (pressed : Bool) (s : State) : Response × State :=
  if h : index < 16 then (.ok, s.setKeyBit ⟨index, h⟩ pressed) else (.invalidKey, s)

/-- The `RUN_SLICE` command (R319). -/
def commandRunSlice (budget : Nat) (s : State) : Host.Outcome (Response × State) Fault Refusal :=
  match s.mode with
  | .running => runSliceSteps budget s
  | .halted => .next (.notRunning, s)
  | .stepping => .next (.notRunning, s)

/-- The `STEP_INSTRUCTION` command (R321). -/
def commandStepInstruction (s : State) : Host.Outcome (Response × State) Fault Refusal :=
  match step (s.setMode .stepping) with
  | .next t =>
    .next (.steppedInstruction (s.disassembleAt s.pc) (t.setMode .halted).snapshot (stepResponse t), t.setMode .halted)
  | .fault r => .fault r
  | .refused r => .refused r

/-- The `DISASSEMBLE` command (R324). -/
def commandDisassemble (addr : Word) (s : State) : Response × State :=
  match s.disassembleAt addr with
  | some d => (.disassembly d, s)
  | none => (.outOfBounds, s)

/-- The `DUMP_MEMORY` command (R326). -/
def commandDumpMemory (lo hi : Nat) (s : State) : Response × State :=
  if lo ≤ hi ∧ hi ≤ s.params.memSize then (.bytes (s.readBlock lo (hi - lo)), s) else (.outOfBounds, s)

/-- The command port (R6): the response and the state after one command. -/
def command (c : Command) (s : State) : Host.Outcome (Response × State) Fault Refusal :=
  match c with
  | .reset => .next (.ok, s.resetUnit)
  | .load image => .next (commandLoad image s)
  | .stepOnce => commandStep s
  | .tick => .next (.ok, s.tick)
  | .setKey index pressed => .next (commandSetKey index pressed s)
  | .readFb => .next (.pixels s.pixels, s)
  | .readSound => .next (.sound s.soundActive, s)
  | .addBp addr => .next (.ok, s.setBp (insertAddr addr s.bp))
  | .removeBp addr => .next (.ok, s.setBp (s.bp.filter (fun b => decide (b ≠ addr))))
  | .run => .next (.ok, s.setMode .running)
  | .runSlice budget => commandRunSlice budget s
  | .halt => .next (.ok, s.setMode .halted)
  | .stepInstruction => commandStepInstruction s
  | .disassemble addr => .next (commandDisassemble addr s)
  | .dumpRegisters => .next (.registers s.snapshot, s)
  | .dumpMemory lo hi => .next (commandDumpMemory lo hi s)

/-- A sequence of commands, in order (R6, R83): the responses and the state after them. -/
def commands : List Command → State → Host.Outcome (List Response × State) Fault Refusal
  | [], s => .next ([], s)
  | c :: cs, s =>
    match command c s with
    | .next (r, t) =>
      match commands cs t with
      | .next (rs, u) => .next (r :: rs, u)
      | .fault f => .fault f
      | .refused f => .refused f
    | .fault f => .fault f
    | .refused f => .refused f

end Sys2Proof.Machine
end

