-- ==== Sys2Proof/Safety.lean ====
section
/-! DEFINITION. The terms claims are stated in: the end-of-run states of spec/60_exceptions.md R328, the
invariant of the reachable states, what a step may fault for (R300, R306), and what each instruction may
write. -/

namespace Sys2Proof.Machine

/-! ## The end of a run (R328) -/

/-- FAULTED: a fault is latched (R328). -/
def State.faulted (s : State) : Bool := s.fault.valid

/-- PARKED: the word at `pc` is `1nnn` with `nnn = pc` (R328). -/
def State.parked (s : State) : Bool :=
  s.fetchable && (match decode s.fetchWord with
    | some (.jp nnn) => decide (zext16 nnn = s.pc)
    | _ => false)

/-- Whether `LD Vx, K` would spin if a step executed it (R243). -/
def State.keyWaitSpins (s : State) : Bool :=
  match s.params.keyWaitTrigger with
  | .level => (lowestKey s.key).isNone
  | .edge => !s.waitArmed || (lowestKey s.keyEvents).isNone

/-- WAITING: the word at `pc` decodes to `LD Vx, K` and the step would spin (R328); with a fault latched the step
executes nothing, so it does not spin (R141). -/
def State.waiting (s : State) : Bool :=
  !s.faulted && s.fetchable && (match decode s.fetchWord with
    | some (.ldVxK _) => s.keyWaitSpins
    | _ => false)

/-- The one successful end the unit itself reaches: parked, and never faulted (R328). -/
def State.endedWell (s : State) : Bool := s.parked && !s.faulted

/-! ## The invariant -/

/-- The display surface has `DISP_H` rows of `DISP_W` pixels (R37). -/
def displayShaped (p : Params) (fb : List (List Bool)) : Prop :=
  fb.length = p.dispH ∧ ∀ row ∈ fb, row.length = p.dispW

/-- A breakpoint set in its one form: strictly rising (log entry 11). -/
def risingAddrs (bp : List Word) : Prop := bp.Pairwise (fun a b => a.toNat < b.toNat)

/-- What holds in every state between commands: well-formed parameters; memory in canonical form;
`sp <= STACK_DEPTH` (R35); the display's shape (R37); the breakpoint set's form; `MODE` Halted or Running
(R41); the latch all 0 or a recorded kind (R42); and no wait state under `LEVEL` (R39). -/
structure State.Inv (s : State) : Prop where
  params : s.params.wellFormed = true
  mem : Memory.wf s.params s.mem = true
  sp : s.sp.toNat ≤ 16
  fb : displayShaped s.params s.fb
  bp : risingAddrs s.bp
  mode : s.mode ≠ .stepping
  fault : s.fault = .clear ∨ (s.fault.valid = true ∧ s.fault.kind ≠ .none)
  wait : s.params.keyWaitTrigger = .level → s.waitArmed = false ∧ s.keyEvents = noEvents

/-! ## Why a step faults (R300, R306) -/

/-- The fault an instruction raises in a state whose `pc` has been advanced, if it raises one: the rows of
R300's table for the execute stage. -/
def instrFault (i : Instr) (s : State) : Option FaultKind :=
  match i with
  | .call _ => if s.sp.toNat = 16 then some .stackOverflow else none
  | .ret => if s.sp.toNat = 0 then some .stackUnderflow else none
  | .drw _ _ n => if 0 < n.toNat ∧ s.params.memSize < s.i.toNat + n.toNat then some .outOfBounds else none
  | .ldBVx _ => if s.params.memSize < s.i.toNat + 3 then some .outOfBounds else none
  | .ldMemVx x => if s.params.memSize < s.i.toNat + (x.val + 1) then some .outOfBounds else none
  | .ldVxMem x => if s.params.memSize < s.i.toNat + (x.val + 1) then some .outOfBounds else none
  | .skp x => if 0x0F < (s.reg x).toNat then some .invalidKey else none
  | .sknp x => if 0x0F < (s.reg x).toNat then some .invalidKey else none
  | .cls | .jp _ | .seByte _ _ | .sneByte _ _ | .seReg _ _ | .ldByte _ _ | .addByte _ _ | .ldReg _ _
  | .orReg _ _ | .andReg _ _ | .xorReg _ _ | .addReg _ _ | .subReg _ _ | .shr _ _ | .subnReg _ _ | .shl _ _
  | .sneReg _ _ | .ldI _ | .jpV0 _ | .rnd _ _ | .ldVxDt _ | .ldVxK _ | .ldDtVx _ | .ldStVx _ | .addIVx _
  | .ldFVx _ => none

/-- The fault a step raises, if it raises one: the first of a fetch out of bounds, an invalid word, and the
instruction's own fault (R306). -/
def stepFault (s : State) : Option FaultKind :=
  if s.params.memSize ≤ s.pc.toNat + 1 then some .outOfBounds
  else
    match decode s.fetchWord with
    | none => some .invalidOpcode
    | some i => instrFault i s

/-- `n` steps in a row (R140); a step with a fault latched answers the same state again (R141). -/
def steps : Nat → State → Host.Outcome State Fault Refusal
  | 0, s => .next s
  | n + 1, s =>
    match step s with
    | .next t => steps n t
    | .fault r => .fault r
    | .refused r => .refused r

/-! ## Words written out from the spec's formats (R102), as numbers -/

/-- The word of format `NNN` (R102): `op`, then `nnn`. -/
def wordNNN (op : Nat) (nnn : BitVec 12) : Word := BitVec.ofNat 16 (op * 0x1000 + nnn.toNat)

/-- The word of format `XKK`, or of format `X` with its sub-function byte (R102): `op`, `x`, then a byte. -/
def wordXKK (op : Nat) (x : RegName) (kk : Byte) : Word := BitVec.ofNat 16 (op * 0x1000 + x.val * 0x100 + kk.toNat)

/-- The word of format `XYN`, or of format `XY` with its sub-function nibble (R102): `op`, `x`, `y`, then a
nibble. -/
def wordXYN (op : Nat) (x y : RegName) (n : BitVec 4) : Word :=
  BitVec.ofNat 16 (op * 0x1000 + x.val * 0x100 + y.val * 0x10 + n.toNat)

/-! ## What an instruction may write -/

/-- The registers an instruction may write (R31 for VF; each instruction's rule for the others). -/
def mayWriteReg (p : Params) (i : Instr) (r : RegName) : Bool :=
  match i with
  | .ldByte x _ | .addByte x _ | .ldReg x _ | .rnd x _ | .ldVxDt x | .ldVxK x => decide (r = x)
  | .orReg x _ | .andReg x _ | .xorReg x _ => decide (r = x) || (p.vfResetOnLogic && decide (r = 15))
  | .addReg x _ | .subReg x _ | .subnReg x _ | .shr x _ | .shl x _ => decide (r = x) || decide (r = 15)
  | .drw _ _ _ => decide (r = 15)
  | .ldVxMem x => decide (r.val ≤ x.val)
  | .cls | .ret | .jp _ | .call _ | .seByte _ _ | .sneByte _ _ | .seReg _ _ | .sneReg _ _ | .ldI _ | .jpV0 _
  | .skp _ | .sknp _ | .ldDtVx _ | .ldStVx _ | .addIVx _ | .ldFVx _ | .ldBVx _ | .ldMemVx _ => false

/-- The addresses an instruction stores to when it completes (R82): `I` to `I + 2` for `LD B, Vx` and `I` to
`I + x` for `LD [I], Vx`; no other instruction stores. -/
def storesTo (i : Instr) (s : State) (a : Nat) : Bool :=
  match i with
  | .ldBVx _ => decide (s.i.toNat ≤ a ∧ a < s.i.toNat + 3)
  | .ldMemVx x => decide (s.i.toNat ≤ a ∧ a < s.i.toNat + (x.val + 1))
  | .cls | .ret | .jp _ | .call _ | .seByte _ _ | .sneByte _ _ | .seReg _ _ | .ldByte _ _ | .addByte _ _
  | .ldReg _ _ | .orReg _ _ | .andReg _ _ | .xorReg _ _ | .addReg _ _ | .subReg _ _ | .shr _ _ | .subnReg _ _
  | .shl _ _ | .sneReg _ _ | .ldI _ | .jpV0 _ | .rnd _ _ | .drw _ _ _ | .skp _ | .sknp _ | .ldVxDt _
  | .ldVxK _ | .ldDtVx _ | .ldStVx _ | .addIVx _ | .ldFVx _ | .ldVxMem _ => false

/-- Only the registers given may have changed: every other register, every other field of the state and
every byte of memory is as before. -/
def OnlyRegisters (dest : RegName → Prop) (s t : State) : Prop :=
  t = { s with v := t.v } ∧ (∀ r, ¬ dest r → t.reg r = s.reg r) ∧ ∀ a, t.byteAt a = s.byteAt a

/-- A fault was taken by an instruction and nothing else happened: the latch holds the kind, the address the
instruction was fetched from and its word; everything else is as before (R147, R301). -/
def FaultTaken (kind : FaultKind) (word : Word) (s t : State) : Prop :=
  t = { s with fault := { valid := true, kind := kind, pc := s.pc - 2, word := word } }

/-! ## Sprites (R221) -/

/-- Some set bit of the sprite lands on the display place `(px, py)` (R221). -/
def spriteCovers (s : State) (x y : RegName) (n px py : Nat) : Bool :=
  (List.range n).any fun r => (List.range 8).any fun c =>
    (s.byteAt (s.i.toNat + r)).getLsbD (7 - c) &&
      decide (px = ((s.reg x).toNat % s.params.dispW + c) % s.params.dispW) &&
      decide (py = ((s.reg y).toNat % s.params.dispH + r) % s.params.dispH)

end Sys2Proof.Machine
end

