-- ==== Sys2Proof/Certificates/Slice0/Obligations.lean ====
section
/-! DEFINITION. The statements about the unit, from the numbered rules of spec/. In a statement about an
instruction, the state given to `exec` is the state after the fetch advance, so its `pc` is the instruction's
address plus 2 (R12, R143). -/

open Sys2Proof Sys2Proof.Machine

/-! ## Encoding (spec/30_encoding.md) -/

/-- Decode and encode agree for every instruction and every operand, from words and from bytes (R103, R112). -/
def Obligations.DecodeReadsBackEveryInstruction : Prop :=
  ∀ (i : Instr) (rest : List Byte), i.wellFormed = true →
    decode (encode i) = some i ∧ decodeBytes (bytesOfWord (encode i) ++ rest) = some (i, rest)

/-- A decoded word is the word its instruction encodes to: decoding drops no bit (R112). -/
def Obligations.EncodeGivesBackTheDecodedWord : Prop :=
  ∀ (w : Word) (i : Instr), decode w = some i → encode i = w

/-- The decoder is the table of R103: a word decodes to an instruction of row `k` exactly when
`(w AND mask) = match` for that row; no word matches two rows; a word matching no row is `INVALID`. -/
def Obligations.DecodeIsTheTableOfMatchAndMask : Prop :=
  ∀ w : Word,
    (∀ (k : Nat) (row : Word × Word), rom[k]? = some row →
      (w &&& row.2 = row.1 ↔ ∃ i, decode w = some i ∧ i.row = k + 1)) ∧
    (∀ (j k : Nat) (rowJ rowK : Word × Word), rom[j]? = some rowJ → rom[k]? = some rowK →
      w &&& rowJ.2 = rowJ.1 → w &&& rowK.2 = rowK.1 → j = k) ∧
    (decode w = none ↔ ∀ row ∈ rom, w &&& row.2 ≠ row.1)

/-- The `INVALID` words, family by family (R105; its counts are not stated here). -/
def Obligations.InvalidWordsAreExactlyTheListed : Prop :=
  ∀ w : Word,
    decode w = none ↔
      (w.toNat / 0x1000 = 0x0 ∧ w ≠ 0x00E0#16 ∧ w ≠ 0x00EE#16) ∨
      (w.toNat / 0x1000 = 0x5 ∧ w.toNat % 0x10 ≠ 0) ∨
      (w.toNat / 0x1000 = 0x8 ∧ w.toNat % 0x10 ∈ [0x8, 0x9, 0xA, 0xB, 0xC, 0xD, 0xF]) ∨
      (w.toNat / 0x1000 = 0x9 ∧ w.toNat % 0x10 ≠ 0) ∨
      (w.toNat / 0x1000 = 0xE ∧ w.toNat % 0x100 ∉ [0x9E, 0xA1]) ∨
      (w.toNat / 0x1000 = 0xF ∧
        w.toNat % 0x100 ∉ [0x07, 0x0A, 0x15, 0x18, 0x1E, 0x29, 0x33, 0x55, 0x65])

/-- The text the disassembler gives for any word, valid or not, encodes to that word again, read from its
spelling (R112). -/
def Obligations.ReencodingTheTextGivesTheWord : Prop :=
  ∀ w : Word, assemble (asmOfWord w) = some w ∧ reencode (disassembleWord w) = some w

/-- A few words written out in the spec decode to the instructions they stand for. -/
def Obligations.WordsOfTheSpecDecode : Prop :=
  decode 0x00E0#16 = some .cls ∧ decode 0x6005#16 = some (.ldByte 0 5) ∧
  decode 0x7003#16 = some (.addByte 0 3) ∧ decode 0x1228#16 = some (.jp 0x228) ∧
  decode 0x8AB6#16 = some (.shr 0xA 0xB) ∧ decode 0xD125#16 = some (.drw 1 2 5) ∧
  decode 0xE19E#16 = some (.skp 1) ∧ decode 0xF329#16 = some (.ldFVx 3) ∧
  decode 0xF355#16 = some (.ldMemVx 3) ∧ decode 0x5121#16 = none ∧ decode 0x0123#16 = none

/-! ## The cycle and faults (spec/40_execution_cycle.md, spec/60_exceptions.md) -/

/-- A step fetches the two bytes at `pc`, the first the more significant, advances `pc` by 2 and executes the
decoded instruction (R75, R143). -/
def Obligations.StepRunsTheDecodedInstruction : Prop :=
  ∀ (s : State) (i : Instr), s.fault.valid = false → s.pc.toNat + 1 < s.params.memSize →
    decode (s.byteAt s.pc.toNat ++ s.byteAt (s.pc.toNat + 1)) = some i →
    step s = exec i { s with pc := BitVec.ofNat 16 (s.pc.toNat + 2) }

/-- A latched fault: a step changes nothing and answers the latched error, and no command but `RESET` clears
or overwrites the latch (R141, R305). -/
def Obligations.LatchedFaultStaysUntilReset : Prop :=
  ∀ s : State, s.fault.valid = true →
    step s = .next s ∧
    command .stepOnce s = .next (.stepped (.engineError s.fault.kind), s) ∧
    (∀ (c : Command) (r : Response) (t : State), c ≠ .reset → command c s = .next (r, t) → t.fault = s.fault) ∧
    ∃ r t, command .reset s = .next (r, t) ∧ t.fault.valid = false

/-- A fetch out of bounds: nothing is read, `pc` is not advanced, and `OutOfBounds` is latched with word 0
(R142). -/
def Obligations.FetchOutOfBoundsFaults : Prop :=
  ∀ s : State, s.fault.valid = false → s.params.memSize ≤ s.pc.toNat + 1 →
    step s = .next { s with fault := { valid := true, kind := .outOfBounds, pc := s.pc, word := 0 } }

/-- An invalid word: `pc` is advanced, nothing is executed, and `InvalidOpcode` is latched; every later step
is a step of the latched state and changes nothing (R144, R141). -/
def Obligations.InvalidWordFaults : Prop :=
  ∀ (s : State) (w : Word), s.fault.valid = false → s.pc.toNat + 1 < s.params.memSize →
    w = s.byteAt s.pc.toNat ++ s.byteAt (s.pc.toNat + 1) → decode w = none →
    ∃ t, step s = .next t ∧ step t = .next t ∧
      t = { s with
            pc := BitVec.ofNat 16 (s.pc.toNat + 2)
            fault := { valid := true, kind := .invalidOpcode, pc := s.pc, word := w } }

/-- Faults are precise: a step that faults changes `pc` and the latch only; the latch holds the address and
the word of the faulting instruction, and `pc` is advanced, except for a fetch fault, which advances nothing
and records word 0 (R147, R301, R302). -/
def Obligations.FaultsArePrecise : Prop :=
  ∀ s t : State, s.fault.valid = false → step s = .next t → t.fault.valid = true →
    t = { s with pc := t.pc, fault := t.fault } ∧ t.fault.pc = s.pc ∧
    ((s.params.memSize ≤ s.pc.toNat + 1 ∧ t.pc = s.pc ∧ t.fault.word = 0 ∧ t.fault.kind = .outOfBounds) ∨
     (s.pc.toNat + 1 < s.params.memSize ∧ t.pc = BitVec.ofNat 16 (s.pc.toNat + 2) ∧
      t.fault.word = s.byteAt s.pc.toNat ++ s.byteAt (s.pc.toNat + 1) ∧ t.fault.kind ≠ .none))

/-- Every step completes, and it faults exactly when the table of R300 says, with the kind the table gives,
the first condition in the order of R306 winning; the response says so. -/
def Obligations.StepFaultsExactlyByTheTable : Prop :=
  ∀ s : State, s.fault.valid = false → s.sp.toNat ≤ 16 →
    ∃ t, step s = .next t ∧
      (stepFault s = none → t.fault = s.fault ∧ command .stepOnce s = .next (.stepped .ok, t)) ∧
      (∀ k, stepFault s = some k →
        t.fault.valid = true ∧ t.fault.kind = k ∧ command .stepOnce s = .next (.stepped (.engineError k), t))

/-- A stack pointer past the stack stops `CALL` and `RET` under the model's own fault (log entry 5: the
model's choice for states R35 says are never reached). -/
def Obligations.StackPointerPastTheStackStops : Prop :=
  ∀ (s : State) (nnn : BitVec 12), 16 < s.sp.toNat →
    exec (.call nnn) s = .fault .noSuchStackEntry ∧ exec .ret s = .fault .noSuchStackEntry

/-! ## The invariant -/

/-- The invariant holds right after reset. The breakpoint set's one form and the relations between the parameters
are the model's own (log entries 11 and 14). -/
def Obligations.ResetMeetsTheInvariant : Prop := State.reset.Inv

/-- Every step keeps the invariant: canonical memory, `sp <= 16` (R35), the display's shape (R37), a legal
mode between commands (R41), a consistent latch (R42), no wait state under `LEVEL` (R39). -/
def Obligations.StepKeepsTheInvariant : Prop :=
  ∀ s t : State, s.Inv → step s = .next t → t.Inv

/-- Every sequence of commands, in any interleaving, completes and keeps the invariant and the parameters
(R6, R7, R312). -/
def Obligations.EveryCommandSequenceKeepsTheInvariant : Prop :=
  ∀ (cs : List Command) (s : State), s.Inv →
    ∃ rs t, commands cs s = .next (rs, t) ∧ rs.length = cs.length ∧ t.Inv ∧ t.params = s.params

/-- The state right after construction and reset, the font's bytes written out (R45, R380, R80). That
`State.reset` is construction with the conventional parameters of R7 is the model's choice (log entries 1 and
15). -/
def Obligations.ConstructionLeavesTheStatedValues : Prop :=
  (∀ r, State.reset.reg r = 0) ∧ State.reset.i = 0 ∧ State.reset.pc = 0x200 ∧ State.reset.sp = 0 ∧
  (∀ k, State.reset.stackEntry k = 0) ∧ State.reset.dt = 0 ∧ State.reset.st = 0 ∧
  displayShaped State.reset.params State.reset.fb ∧ (∀ px py, pixelAt State.reset.fb px py = false) ∧
  (∀ k, State.reset.keyDown k = false) ∧ State.reset.waitArmed = false ∧ State.reset.keyEvents = noEvents ∧
  State.reset.bp = [] ∧ State.reset.mode = .halted ∧
  State.reset.fault = { valid := false, kind := .none, pc := 0, word := 0 } ∧
  State.reset.params.memSize = 4096 ∧ State.reset.params.dispW = 64 ∧ State.reset.params.dispH = 32 ∧
  State.reset.readBlock 0 80 =
    [0xF0, 0x90, 0x90, 0x90, 0xF0, 0x20, 0x60, 0x20, 0x20, 0x70, 0xF0, 0x10, 0xF0, 0x80, 0xF0, 0xF0, 0x10, 0xF0, 0x10, 0xF0] ++
    ([0x90, 0x90, 0xF0, 0x10, 0x10, 0xF0, 0x80, 0xF0, 0x10, 0xF0, 0xF0, 0x80, 0xF0, 0x90, 0xF0, 0xF0, 0x10, 0x20, 0x40, 0x40] ++
    ([0xF0, 0x90, 0xF0, 0x90, 0xF0, 0xF0, 0x90, 0xF0, 0x10, 0xF0, 0xF0, 0x90, 0xF0, 0x90, 0x90, 0xE0, 0x90, 0xE0, 0x90, 0xE0] ++
     [0xF0, 0x80, 0x80, 0x80, 0xF0, 0xE0, 0x90, 0x90, 0x90, 0xE0, 0xF0, 0x80, 0xF0, 0x80, 0xF0, 0xF0, 0x80, 0xF0, 0x80, 0x80])) ∧
  (∀ a : Nat, 80 ≤ a → State.reset.byteAt a = 0)

/-! ## Register loads, arithmetic, logic, random (spec/42_alu.md) -/

/-- `LD Vx, byte` (R170) and `LD Vx, Vy` (R172). -/
def Obligations.LoadsIntoARegister : Prop :=
  ∀ (s : State) (x y : RegName) (kk : Byte),
    (decode (wordXKK 0x6 x kk) = some (.ldByte x kk) ∧
      ∃ t, exec (.ldByte x kk) s = .next t ∧ t.reg x = kk ∧ OnlyRegisters (fun r => r = x) s t) ∧
    (decode (wordXYN 0x8 x y 0x0) = some (.ldReg x y) ∧
      ∃ t, exec (.ldReg x y) s = .next t ∧ t.reg x = s.reg y ∧ OnlyRegisters (fun r => r = x) s t)

/-- `ADD Vx, byte`: the sum modulo 256, and no flag on this form (R171). -/
def Obligations.AddImmediateWrapsWithoutFlag : Prop :=
  ∀ (s : State) (x : RegName) (kk : Byte),
    decode (wordXKK 0x7 x kk) = some (.addByte x kk) ∧
    ∃ t, exec (.addByte x kk) s = .next t ∧
      (t.reg x).toNat = ((s.reg x).toNat + kk.toNat) % 256 ∧ OnlyRegisters (fun r => r = x) s t

/-- `OR`, `AND`, `XOR`: the bitwise result; VF is left alone, or cleared after the result when
`VF_RESET_ON_LOGIC` holds (R173, R174, R175). -/
def Obligations.LogicResultsAndFlagReset : Prop :=
  ∀ (s : State) (x y : RegName),
    (decode (wordXYN 0x8 x y 0x1) = some (.orReg x y) ∧
      ∃ t, exec (.orReg x y) s = .next t ∧
        t.reg x = (if s.params.vfResetOnLogic = true ∧ x = 15 then 0 else s.reg x ||| s.reg y) ∧
        (s.params.vfResetOnLogic = true → t.reg 15 = 0) ∧
        OnlyRegisters (fun r => r = x ∨ (s.params.vfResetOnLogic = true ∧ r = 15)) s t) ∧
    (decode (wordXYN 0x8 x y 0x2) = some (.andReg x y) ∧
      ∃ t, exec (.andReg x y) s = .next t ∧
        t.reg x = (if s.params.vfResetOnLogic = true ∧ x = 15 then 0 else s.reg x &&& s.reg y) ∧
        (s.params.vfResetOnLogic = true → t.reg 15 = 0) ∧
        OnlyRegisters (fun r => r = x ∨ (s.params.vfResetOnLogic = true ∧ r = 15)) s t) ∧
    (decode (wordXYN 0x8 x y 0x3) = some (.xorReg x y) ∧
      ∃ t, exec (.xorReg x y) s = .next t ∧
        t.reg x = (if s.params.vfResetOnLogic = true ∧ x = 15 then 0 else s.reg x ^^^ s.reg y) ∧
        (s.params.vfResetOnLogic = true → t.reg 15 = 0) ∧
        OnlyRegisters (fun r => r = x ∨ (s.params.vfResetOnLogic = true ∧ r = 15)) s t)

/-- `ADD Vx, Vy`: the sum modulo 256, VF = 1 exactly when the sum exceeds 255; with `x = 15` VF ends holding
the flag (R176). -/
def Obligations.AddSetsTheCarry : Prop :=
  ∀ (s : State) (x y : RegName),
    decode (wordXYN 0x8 x y 0x4) = some (.addReg x y) ∧
    ∃ t, exec (.addReg x y) s = .next t ∧
      (x ≠ 15 → (t.reg x).toNat = ((s.reg x).toNat + (s.reg y).toNat) % 256) ∧
      t.reg 15 = (if 255 < (s.reg x).toNat + (s.reg y).toNat then 1 else 0) ∧
      OnlyRegisters (fun r => r = x ∨ r = 15) s t

/-- `SUB Vx, Vy` and `SUBN Vx, Vy`: the integer difference modulo 256, VF = 1 exactly when no borrow occurs
(R177, R179). -/
def Obligations.SubtractionsSetNotBorrow : Prop :=
  ∀ (s : State) (x y : RegName),
    (decode (wordXYN 0x8 x y 0x5) = some (.subReg x y) ∧
      ∃ t, exec (.subReg x y) s = .next t ∧
        (x ≠ 15 → ((t.reg x).toNat : Int) = ((s.reg x).toNat - (s.reg y).toNat : Int) % 256) ∧
        t.reg 15 = (if (s.reg y).toNat ≤ (s.reg x).toNat then 1 else 0) ∧
        OnlyRegisters (fun r => r = x ∨ r = 15) s t) ∧
    (decode (wordXYN 0x8 x y 0x7) = some (.subnReg x y) ∧
      ∃ t, exec (.subnReg x y) s = .next t ∧
        (x ≠ 15 → ((t.reg x).toNat : Int) = ((s.reg y).toNat - (s.reg x).toNat : Int) % 256) ∧
        t.reg 15 = (if (s.reg x).toNat ≤ (s.reg y).toNat then 1 else 0) ∧
        OnlyRegisters (fun r => r = x ∨ r = 15) s t)

/-- `SHR Vx, Vy`: half of the value `SHIFT_SOURCE` selects, VF = the bit shifted out (R178). -/
def Obligations.ShiftRightHalves : Prop :=
  ∀ (s : State) (x y : RegName) (v : Byte),
    v = (match s.params.shiftSource with | .vx => s.reg x | .vy => s.reg y) →
    decode (wordXYN 0x8 x y 0x6) = some (.shr x y) ∧
    ∃ t, exec (.shr x y) s = .next t ∧
      (x ≠ 15 → (t.reg x).toNat = v.toNat / 2) ∧ (t.reg 15).toNat = v.toNat % 2 ∧
      OnlyRegisters (fun r => r = x ∨ r = 15) s t

/-- `SHL Vx, Vy`: twice the value `SHIFT_SOURCE` selects, modulo 256, VF = the bit shifted out (R180). -/
def Obligations.ShiftLeftDoubles : Prop :=
  ∀ (s : State) (x y : RegName) (v : Byte),
    v = (match s.params.shiftSource with | .vx => s.reg x | .vy => s.reg y) →
    decode (wordXYN 0x8 x y 0xE) = some (.shl x y) ∧
    ∃ t, exec (.shl x y) s = .next t ∧
      (x ≠ 15 → (t.reg x).toNat = v.toNat * 2 % 256) ∧ (t.reg 15).toNat = v.toNat / 128 ∧
      OnlyRegisters (fun r => r = x ∨ r = 15) s t

/-- `RND Vx, byte`: the byte drawn, a free value, AND the immediate; the result has no bit the immediate
lacks (R181). That a draw takes the byte at a counter and advances the counter is the model's choice (log
entry 2), no rule of the spec. -/
def Obligations.RandomIsTheMaskedDraw : Prop :=
  ∀ (s : State) (x : RegName) (kk : Byte),
    decode (wordXKK 0xC x kk) = some (.rnd x kk) ∧
    ∃ t, exec (.rnd x kk) s = .next t ∧
      t.reg x = Config.rngByte s.rngDraws &&& kk ∧ t.reg x &&& ~~~kk = 0 ∧
      t = { s with v := t.v, rngDraws := s.rngDraws + 1 } ∧
      (∀ r, r ≠ x → t.reg r = s.reg r) ∧ ∀ a, t.byteAt a = s.byteAt a

/-- Over all instructions: a register changes only where the instruction names it as a destination or the
spec writes it as a flag; so VF changes only by `ADD Vx, Vy`, `SUB`, `SUBN`, `SHR`, `SHL`, `DRW`, the logic
instructions when `VF_RESET_ON_LOGIC` holds, or as a named destination (R31). -/
def Obligations.RegistersChangeOnlyWhereNamed : Prop :=
  ∀ (i : Instr) (s t : State), exec i s = .next t →
    ∀ r, mayWriteReg s.params i r = false → t.reg r = s.reg r

/-! ## Control flow (spec/41_control_flow.md) -/

/-- `JP addr` (R151) and `JP V0, addr` (R157). -/
def Obligations.JumpsSetThePc : Prop :=
  ∀ (s : State) (nnn : BitVec 12),
    (decode (wordNNN 0x1 nnn) = some (.jp nnn) ∧
      exec (.jp nnn) s = .next { s with pc := BitVec.ofNat 16 nnn.toNat }) ∧
    (decode (wordNNN 0xB nnn) = some (.jpV0 nnn) ∧
      exec (.jpV0 nnn) s = .next { s with
        pc := BitVec.ofNat 16 (nnn.toNat + (s.reg (match s.params.jumpOffsetReg with
          | .v0 => 0
          | .vx => Fin.ofNat 16 (nnn.toNat / 0x100))).toNat) })

/-- `CALL addr`: the return address is pushed, `sp` grows by one and `pc` is the target; on a full stack
`StackOverflow` is raised and nothing else changes (R152). -/
def Obligations.CallPushesTheReturnAddress : Prop :=
  ∀ (s : State) (nnn : BitVec 12),
    decode (wordNNN 0x2 nnn) = some (.call nnn) ∧
    (s.sp.toNat < 16 →
      ∃ t, exec (.call nnn) s = .next t ∧
        t = { s with stack := t.stack, sp := BitVec.ofNat 8 (s.sp.toNat + 1), pc := BitVec.ofNat 16 nnn.toNat } ∧
        (∀ k : Fin 16, t.stackEntry k = if k.val = s.sp.toNat then s.pc else s.stackEntry k) ∧
        ∀ a, t.byteAt a = s.byteAt a) ∧
    (s.sp.toNat = 16 →
      ∃ t, exec (.call nnn) s = .next t ∧ FaultTaken .stackOverflow (wordNNN 0x2 nnn) s t)

/-- `RET`: `sp` falls by one and `pc` is the entry it then names, which keeps its value; on an empty stack
`StackUnderflow` is raised and nothing else changes (R150). -/
def Obligations.RetPopsTheReturnAddress : Prop :=
  ∀ s : State,
    decode 0x00EE#16 = some .ret ∧
    (∀ k : Fin 16, s.sp.toNat = k.val + 1 →
      exec .ret s = .next { s with sp := BitVec.ofNat 8 k.val, pc := s.stackEntry k }) ∧
    (s.sp.toNat = 0 → ∃ t, exec .ret s = .next t ∧ FaultTaken .stackUnderflow 0x00EE#16 s t)

/-- `SE Vx, byte` and `SNE Vx, byte` (R153, R154), with the skip of R148. -/
def Obligations.SkipsOnAnImmediate : Prop :=
  ∀ (s : State) (x : RegName) (kk : Byte),
    (decode (wordXKK 0x3 x kk) = some (.seByte x kk) ∧
      exec (.seByte x kk) s = .next { s with
        pc := if s.reg x = kk then BitVec.ofNat 16 (s.pc.toNat + 2) else s.pc }) ∧
    (decode (wordXKK 0x4 x kk) = some (.sneByte x kk) ∧
      exec (.sneByte x kk) s = .next { s with
        pc := if s.reg x = kk then s.pc else BitVec.ofNat 16 (s.pc.toNat + 2) })

/-- `SE Vx, Vy` and `SNE Vx, Vy` (R155, R156), with the skip of R148; a low nibble other than 0 is `INVALID`. -/
def Obligations.SkipsOnARegister : Prop :=
  ∀ (s : State) (x y : RegName),
    (∀ n : BitVec 4, n ≠ 0 → decode (wordXYN 0x5 x y n) = none ∧ decode (wordXYN 0x9 x y n) = none) ∧
    (decode (wordXYN 0x5 x y 0x0) = some (.seReg x y) ∧
      exec (.seReg x y) s = .next { s with
        pc := if s.reg x = s.reg y then BitVec.ofNat 16 (s.pc.toNat + 2) else s.pc }) ∧
    (decode (wordXYN 0x9 x y 0x0) = some (.sneReg x y) ∧
      exec (.sneReg x y) s = .next { s with
        pc := if s.reg x = s.reg y then s.pc else BitVec.ofNat 16 (s.pc.toNat + 2) })

/-- `RET` right after `CALL` comes back to the instruction after the `CALL` with the stack pointer as it was;
only the dead entry differs (R150, R152). -/
def Obligations.CallThenRetComesBack : Prop :=
  ∀ (s : State) (nnn : BitVec 12), s.sp.toNat < 16 →
    ∃ t u, exec (.call nnn) s = .next t ∧ exec .ret t = .next u ∧
      u = { s with stack := u.stack } ∧
      ∀ k : Fin 16, k.val ≠ s.sp.toNat → u.stackEntry k = s.stackEntry k

/-- Over all instructions: the stack is written only by `CALL`, at `S[sp]`, and `sp` only by `CALL` and `RET`
(R34, R35). -/
def Obligations.StackIsWrittenOnlyByCall : Prop :=
  ∀ (i : Instr) (s t : State), exec i s = .next t →
    (∀ k : Fin 16, t.stackEntry k ≠ s.stackEntry k → (∃ nnn, i = .call nnn) ∧ k.val = s.sp.toNat) ∧
    (t.sp ≠ s.sp → i = .ret ∨ ∃ nnn, i = .call nnn)

/-! ## Index register and memory (spec/43_index_memory.md, spec/20_memory.md) -/

/-- `LD I, addr` (R200), `ADD I, Vx` (R201: VF is not written) and `LD F, Vx` (R202). -/
def Obligations.IndexRegisterResults : Prop :=
  ∀ (s : State) (x : RegName) (nnn : BitVec 12),
    (decode (wordNNN 0xA nnn) = some (.ldI nnn) ∧
      exec (.ldI nnn) s = .next { s with i := BitVec.ofNat 16 nnn.toNat }) ∧
    (decode (wordXKK 0xF x 0x1E) = some (.addIVx x) ∧
      exec (.addIVx x) s = .next { s with i := BitVec.ofNat 16 (s.i.toNat + (s.reg x).toNat) }) ∧
    (decode (wordXKK 0xF x 0x29) = some (.ldFVx x) ∧
      exec (.ldFVx x) s = .next { s with
        i := BitVec.ofNat 16 (s.params.fontBase + s.params.glyphBytes *
          (match s.params.fontDigitMode with
            | .lowNibble => (s.reg x).toNat % 16
            | .full => (s.reg x).toNat)) })

/-- `LD B, Vx`: the hundreds, tens and ones digits at `I`, `I + 1`, `I + 2` and no other byte; out of bounds,
nothing but the fault (R203). -/
def Obligations.DecimalDigitsAreStored : Prop :=
  ∀ (s : State) (x : RegName), Memory.wf s.params s.mem = true →
    decode (wordXKK 0xF x 0x33) = some (.ldBVx x) ∧
    (s.i.toNat + 3 ≤ s.params.memSize →
      ∃ t, exec (.ldBVx x) s = .next t ∧ t = { s with mem := t.mem } ∧
        (t.byteAt s.i.toNat).toNat = (s.reg x).toNat / 100 ∧
        (t.byteAt (s.i.toNat + 1)).toNat = (s.reg x).toNat / 10 % 10 ∧
        (t.byteAt (s.i.toNat + 2)).toNat = (s.reg x).toNat % 10 ∧
        ∀ a, a < s.i.toNat ∨ s.i.toNat + 3 ≤ a → t.byteAt a = s.byteAt a) ∧
    (s.params.memSize < s.i.toNat + 3 →
      ∃ t, exec (.ldBVx x) s = .next t ∧ FaultTaken .outOfBounds (wordXKK 0xF x 0x33) s t)

/-- `LD [I], Vx`: `V[0]` to `V[x]` at `I` to `I + x` and no other byte, `I` as `LOADSTORE_I_INCREMENT` says;
out of bounds, nothing but the fault (R204). -/
def Obligations.RegistersAreStored : Prop :=
  ∀ (s : State) (x : RegName), Memory.wf s.params s.mem = true →
    decode (wordXKK 0xF x 0x55) = some (.ldMemVx x) ∧
    (s.i.toNat + x.val + 1 ≤ s.params.memSize →
      ∃ t, exec (.ldMemVx x) s = .next t ∧
        t = { s with
              mem := t.mem
              i := if s.params.loadStoreIIncrement = true then BitVec.ofNat 16 (s.i.toNat + x.val + 1) else s.i } ∧
        (∀ k : RegName, k.val ≤ x.val → t.byteAt (s.i.toNat + k.val) = s.reg k) ∧
        ∀ a, a < s.i.toNat ∨ s.i.toNat + x.val + 1 ≤ a → t.byteAt a = s.byteAt a) ∧
    (s.params.memSize < s.i.toNat + x.val + 1 →
      ∃ t, exec (.ldMemVx x) s = .next t ∧ FaultTaken .outOfBounds (wordXKK 0xF x 0x55) s t)

/-- `LD Vx, [I]`: `V[0]` to `V[x]` from `I` to `I + x`, `I` as `LOADSTORE_I_INCREMENT` says; out of bounds,
nothing but the fault (R205). -/
def Obligations.RegistersAreLoaded : Prop :=
  ∀ (s : State) (x : RegName),
    decode (wordXKK 0xF x 0x65) = some (.ldVxMem x) ∧
    (s.i.toNat + x.val + 1 ≤ s.params.memSize →
      ∃ t, exec (.ldVxMem x) s = .next t ∧
        t = { s with
              v := t.v
              i := if s.params.loadStoreIIncrement = true then BitVec.ofNat 16 (s.i.toNat + x.val + 1) else s.i } ∧
        (∀ k : RegName, t.reg k = if k.val ≤ x.val then s.byteAt (s.i.toNat + k.val) else s.reg k) ∧
        ∀ a, t.byteAt a = s.byteAt a) ∧
    (s.params.memSize < s.i.toNat + x.val + 1 →
      ∃ t, exec (.ldVxMem x) s = .next t ∧ FaultTaken .outOfBounds (wordXKK 0xF x 0x65) s t)

/-- Registers stored with `LD [I], Vx` and loaded back from the same `I` with `LD Vx, [I]` are as they were,
whatever the registers held in between (R204, R205). -/
def Obligations.StoreThenLoadRestoresRegisters : Prop :=
  ∀ (s t t' : State) (x : RegName), Memory.wf s.params s.mem = true →
    s.i.toNat + x.val + 1 ≤ s.params.memSize → exec (.ldMemVx x) s = .next t →
    t' = { t with v := t'.v, i := s.i } →
    ∃ u, exec (.ldVxMem x) t' = .next u ∧ ∀ k : RegName, k.val ≤ x.val → u.reg k = s.reg k

/-- Over all instructions: only `LD B, Vx` and `LD [I], Vx` store, and only to the bytes from `I` that their
rules give; every other byte reads as before (R82). -/
def Obligations.MemoryChangesOnlyWhereStored : Prop :=
  ∀ (i : Instr) (s t : State), Memory.wf s.params s.mem = true → exec i s = .next t →
    ∀ a, storesTo i s a = false → t.byteAt a = s.byteAt a

/-- One byte: a read has no side effect and gives the last byte written; a write changes only its byte; an
access at or past `MEM_SIZE` reads and writes nothing (R72, R73, R78). -/
def Obligations.ByteReadsAndWrites : Prop :=
  ∀ (s : State) (a : Nat) (b : Byte), Memory.wf s.params s.mem = true →
    (a < s.params.memSize →
      (∃ c, s.memRead a = some c) ∧
      ∃ t, s.memWrite a b = some t ∧ t = { s with mem := t.mem } ∧ Memory.wf t.params t.mem = true ∧
        t.memRead a = some b ∧ ∀ c, c ≠ a → t.memRead c = s.memRead c) ∧
    (s.params.memSize ≤ a → s.memRead a = none ∧ s.memWrite a b = none)

/-! ## Display (spec/44_display.md) -/

/-- `CLS`: every pixel is unset and nothing else changes (R220). -/
def Obligations.ClearUnsetsEveryPixel : Prop :=
  ∀ s : State,
    decode 0x00E0#16 = some .cls ∧
    ∃ t, exec .cls s = .next t ∧ t = { s with fb := t.fb } ∧ displayShaped t.params t.fb ∧
      (∀ px py, pixelAt t.fb px py = false) ∧ ∀ a, t.byteAt a = s.byteAt a

/-- `DRW Vx, Vy, nibble`: every place of the display that a set bit of the sprite covers is flipped and no
other; VF = 1 exactly when a covered pixel was set; coordinates and sprite are read before VF is written;
out of bounds, nothing but the fault; a sprite of height 0 never faults, wherever `I` points (R221; log entry 13
on the table of R11, which words the range check otherwise). -/
def Obligations.DrawFlipsTheCoveredPixels : Prop :=
  ∀ (s : State) (x y : RegName) (n : BitVec 4), 8 ≤ s.params.dispW → 15 ≤ s.params.dispH →
    displayShaped s.params s.fb →
    decode (wordXYN 0xD x y n) = some (.drw x y n) ∧
    (n = 0 ∨ s.i.toNat + n.toNat ≤ s.params.memSize →
      ∃ t, exec (.drw x y n) s = .next t ∧ t = { s with v := t.v, fb := t.fb } ∧
        displayShaped t.params t.fb ∧
        (∀ px py, pixelAt t.fb px py = (pixelAt s.fb px py ^^ spriteCovers s x y n.toNat px py)) ∧
        ((∃ px py, pixelAt s.fb px py = true ∧ spriteCovers s x y n.toNat px py = true) → t.reg 15 = 1) ∧
        ((∀ px py, pixelAt s.fb px py = true → spriteCovers s x y n.toNat px py = false) → t.reg 15 = 0) ∧
        (∀ r, r ≠ 15 → t.reg r = s.reg r) ∧ ∀ a, t.byteAt a = s.byteAt a) ∧
    (0 < n.toNat → s.params.memSize < s.i.toNat + n.toNat →
      ∃ t, exec (.drw x y n) s = .next t ∧ FaultTaken .outOfBounds (wordXYN 0xD x y n) s t)

/-- Drawing the same sprite at the same place twice gives the display back; the second draw sets VF exactly
when a set bit of the sprite landed on a pixel that was unset before the first (R222). -/
def Obligations.DrawingTwiceRestoresTheDisplay : Prop :=
  ∀ (s t : State) (x y : RegName) (n : BitVec 4), 8 ≤ s.params.dispW → 15 ≤ s.params.dispH →
    displayShaped s.params s.fb → x ≠ 15 → y ≠ 15 → (n = 0 ∨ s.i.toNat + n.toNat ≤ s.params.memSize) →
    exec (.drw x y n) s = .next t →
    ∃ u, exec (.drw x y n) t = .next u ∧ u.fb = s.fb ∧
      (u.reg 15 = 1 ↔ ∃ px py, spriteCovers s x y n.toNat px py = true ∧ pixelAt s.fb px py = false) ∧
      (u.reg 15 = 0 ∨ u.reg 15 = 1)

/-- Over all instructions: `FB` is written only by `CLS` and `DRW` (R37), `DT` only by `LD DT, Vx` and `ST` only
by `LD ST, Vx` (R36), `I` only by `LD I`, `ADD I`, `LD F` and the block moves (R32), the wait state only by
`LD Vx, K` (R39), the oracle only by `RND` (R43); and no instruction writes `KEY`, `BP`, `MODE` or a parameter
(R38, R40, R41). -/
def Obligations.EachDeviceHasItsOwnInstructions : Prop :=
  ∀ (i : Instr) (s t : State), exec i s = .next t →
    (t.fb ≠ s.fb → i = .cls ∨ ∃ x y n, i = .drw x y n) ∧
    (t.dt ≠ s.dt → ∃ x, i = .ldDtVx x) ∧
    (t.st ≠ s.st → ∃ x, i = .ldStVx x) ∧
    (t.i ≠ s.i → (∃ nnn, i = .ldI nnn) ∨ (∃ x, i = .addIVx x) ∨ (∃ x, i = .ldFVx x) ∨
      (s.params.loadStoreIIncrement = true ∧ ((∃ x, i = .ldMemVx x) ∨ ∃ x, i = .ldVxMem x))) ∧
    (t.waitArmed ≠ s.waitArmed ∨ t.keyEvents ≠ s.keyEvents → ∃ x, i = .ldVxK x) ∧
    (t.rngDraws ≠ s.rngDraws → ∃ x kk, i = .rnd x kk) ∧
    t.key = s.key ∧ t.bp = s.bp ∧ t.mode = s.mode ∧ t.params = s.params

/-! ## Keys and timers (spec/45_timers_input.md) -/

/-- `SKP Vx` and `SKNP Vx`: a skip when the key named by `V[x]` is pressed, or is not; a value above 0xF names
no key and raises `InvalidKey` (R240, R241). -/
def Obligations.SkipsOnAKey : Prop :=
  ∀ (s : State) (x : RegName),
    decode (wordXKK 0xE x 0x9E) = some (.skp x) ∧ decode (wordXKK 0xE x 0xA1) = some (.sknp x) ∧
    (∀ k : KeyName, (s.reg x).toNat = k.val →
      exec (.skp x) s = .next { s with
        pc := if s.keyDown k = true then BitVec.ofNat 16 (s.pc.toNat + 2) else s.pc } ∧
      exec (.sknp x) s = .next { s with
        pc := if s.keyDown k = true then s.pc else BitVec.ofNat 16 (s.pc.toNat + 2) }) ∧
    (0x0F < (s.reg x).toNat →
      (∃ t, exec (.skp x) s = .next t ∧ FaultTaken .invalidKey (wordXKK 0xE x 0x9E) s t) ∧
      ∃ t, exec (.sknp x) s = .next t ∧ FaultTaken .invalidKey (wordXKK 0xE x 0xA1) s t)

/-- `LD Vx, K` (R243, R149). Under `KEYWAIT_TRIGGER = LEVEL` the lowest key held is stored, and with none held
the instruction is executed again and nothing else changes. Under `EDGE` the first execution arms the wait and
forgets earlier events; an armed wait stores the lowest key pressed since and disarms, and with no event the
instruction is executed again. -/
def Obligations.KeyWaitStoresTheLowestKeyOrRepeats : Prop :=
  ∀ (s : State) (x : RegName),
    decode (wordXKK 0xF x 0x0A) = some (.ldVxK x) ∧
    (s.params.keyWaitTrigger = .level →
      (∀ k : KeyName, s.keyDown k = true → (∀ j : KeyName, j < k → s.keyDown j = false) →
        ∃ t, exec (.ldVxK x) s = .next t ∧ (t.reg x).toNat = k.val ∧ OnlyRegisters (fun r => r = x) s t) ∧
      ((∀ k : KeyName, s.keyDown k = false) → exec (.ldVxK x) s = .next { s with pc := s.pc - 2 })) ∧
    (s.params.keyWaitTrigger = .edge →
      (s.waitArmed = false →
        exec (.ldVxK x) s = .next { s with pc := s.pc - 2, waitArmed := true, keyEvents := noEvents }) ∧
      (s.waitArmed = true →
        (∀ k : KeyName, s.keyEvents[k.val] = true → (∀ j : KeyName, j < k → s.keyEvents[j.val] = false) →
          ∃ t, exec (.ldVxK x) s = .next t ∧ (t.reg x).toNat = k.val ∧
            t = { s with v := t.v, waitArmed := false, keyEvents := noEvents } ∧
            (∀ r, r ≠ x → t.reg r = s.reg r) ∧ ∀ a, t.byteAt a = s.byteAt a) ∧
        ((∀ k : KeyName, s.keyEvents[k.val] = false) → exec (.ldVxK x) s = .next { s with pc := s.pc - 2 })))

/-- `LD Vx, DT` (R242), `LD DT, Vx` (R244), `LD ST, Vx` (R245). -/
def Obligations.TimerInstructions : Prop :=
  ∀ (s : State) (x : RegName),
    (decode (wordXKK 0xF x 0x07) = some (.ldVxDt x) ∧
      ∃ t, exec (.ldVxDt x) s = .next t ∧ t.reg x = s.dt ∧ OnlyRegisters (fun r => r = x) s t) ∧
    (decode (wordXKK 0xF x 0x15) = some (.ldDtVx x) ∧ exec (.ldDtVx x) s = .next { s with dt := s.reg x }) ∧
    (decode (wordXKK 0xF x 0x18) = some (.ldStVx x) ∧ exec (.ldStVx x) s = .next { s with st := s.reg x })

/-! ## The command port (spec/00_scope.md R6, spec/60_exceptions.md, spec/70_reset_and_hazards.md) -/

/-- `TICK` decrements both timers, not below 0, and changes nothing else; `READ_SOUND` answers `ST != 0` and
changes nothing (R310, R311). -/
def Obligations.TickAndSoundSignal : Prop :=
  ∀ s : State,
    command .tick s = .next (.ok, { s with
      dt := BitVec.ofNat 8 (s.dt.toNat - 1), st := BitVec.ofNat 8 (s.st.toNat - 1) }) ∧
    command .readSound s = .next (.sound (decide (s.st.toNat ≠ 0)), s)

/-- `SET_KEY`: the key's bit, and under `EDGE` an event for a press of a released key; an index above 15 changes
nothing and answers `InvalidKey` (R314). -/
def Obligations.SetKeyUpdatesTheLatch : Prop :=
  ∀ (s : State) (pressed : Bool),
    (∀ k : KeyName, ∃ t, command (.setKey k.val pressed) s = .next (.ok, t) ∧
      t = { s with key := t.key, keyEvents := t.keyEvents } ∧
      (∀ j, t.keyDown j = if j = k then pressed else s.keyDown j) ∧
      ∀ j : KeyName, t.keyEvents[j.val] =
        (s.keyEvents[j.val] ||
          (decide (j = k) && decide (s.params.keyWaitTrigger = .edge) && pressed && !s.keyDown k))) ∧
    ∀ index : Nat, 15 < index → command (.setKey index pressed) s = .next (.invalidKey, s)

/-- `RESET` (R381): everything at its reset value but memory and the input latch, which stay. That the parameters
are a field of the state, which stays too, is the model's choice (R7, log entry 1). -/
def Obligations.ResetCommandClearsTheUnit : Prop :=
  ∀ s : State, ∃ t, command .reset s = .next (.ok, t) ∧
    (∀ r, t.reg r = 0) ∧ t.i = 0 ∧ t.sp = 0 ∧ (∀ k, t.stackEntry k = 0) ∧
    t.pc = BitVec.ofNat 16 s.params.entry ∧ t.dt = 0 ∧ t.st = 0 ∧
    displayShaped t.params t.fb ∧ (∀ px py, pixelAt t.fb px py = false) ∧
    t.bp = [] ∧ t.mode = .halted ∧ t.fault = { valid := false, kind := .none, pc := 0, word := 0 } ∧
    t.waitArmed = false ∧ t.keyEvents = noEvents ∧
    t.mem = s.mem ∧ t.key = s.key ∧ t.params = s.params

/-- `LOAD` (R382): the image's bytes from `ENTRY` and no other change; an image that does not fit changes nothing
and answers `CapacityExceeded`. -/
def Obligations.LoadCopiesTheImage : Prop :=
  ∀ (s : State) (image : List Byte), s.params.entry ≤ s.params.memSize → Memory.wf s.params s.mem = true →
    (image.length ≤ s.params.memSize - s.params.entry →
      ∃ t, command (.load image) s = .next (.ok, t) ∧ t = { s with mem := t.mem } ∧
        ∀ a, t.byteAt a =
          if s.params.entry ≤ a ∧ a < s.params.entry + image.length then image.getD (a - s.params.entry) 0
          else s.byteAt a) ∧
    (s.params.memSize - s.params.entry < image.length →
      command (.load image) s = .next (.capacityExceeded, s))

/-- `ADD_BP` and `REMOVE_BP`: the set with the address added or removed; both idempotent; nothing else changes
(R317). -/
def Obligations.BreakpointsAreASet : Prop :=
  ∀ (s : State) (addr : Word),
    (∃ t, command (.addBp addr) s = .next (.ok, t) ∧ t = { s with bp := t.bp } ∧
      (∀ a, a ∈ t.bp ↔ a = addr ∨ a ∈ s.bp) ∧ command (.addBp addr) t = .next (.ok, t)) ∧
    (∃ t, command (.removeBp addr) s = .next (.ok, t) ∧ t = { s with bp := t.bp } ∧
      (∀ a, a ∈ t.bp ↔ a ≠ addr ∧ a ∈ s.bp) ∧ command (.removeBp addr) t = .next (.ok, t))

/-- `RUN_SLICE(n)` in the mode Running is a run of `k` steps, `k <= n`, none but the last of which faults or
ends at a breakpoint: it stops at the first step that faults, or at the first post-step `pc` in `BP`, which is
reported and not executed; otherwise it takes all `n` steps and stays Running. In another mode nothing
happens and the answer is `NotRunning` (R319, R320, R306). -/
def Obligations.RunSliceStopsAtTheFirstBreakpoint : Prop :=
  ∀ (s u : State) (n : Nat) (r : Response), command (.runSlice n) s = .next (r, u) →
    (s.mode ≠ .running → r = .notRunning ∧ u = s) ∧
    (s.mode = .running → ∃ k t, k ≤ n ∧ steps k s = .next t ∧
      (∀ j t', 0 < j → j < k → steps j s = .next t' → t'.fault.valid = false ∧ t'.pc ∉ t'.bp) ∧
      ((r = .keepRunning ∧ k = n ∧ u = t ∧ u.mode = .running ∧
          (0 < n → t.fault.valid = false ∧ t.pc ∉ t.bp)) ∨
       (∃ kind, r = .stepped (.engineError kind) ∧ 0 < k ∧ t.fault.valid = true ∧ t.fault.kind = kind ∧
          u = { t with mode := .halted }) ∨
       (r = .breakpoint t.pc ∧ 0 < k ∧ t.fault.valid = false ∧ t.pc ∈ t.bp ∧ u = { t with mode := .halted })))

/-- `RUN` and `HALT` set the run mode and execute nothing (R318, R322). -/
def Obligations.RunModeCommands : Prop :=
  ∀ s : State,
    command .run s = .next (.ok, { s with mode := .running }) ∧
    (s.mode = .running → command .run s = .next (.ok, s)) ∧
    command .halt s = .next (.ok, { s with mode := .halted })

/-- `STEP_INSTRUCTION` in any mode and whatever the breakpoints: one step, then Halted; the response holds the
text of the word at the pre-step `pc`, or none when it lies outside memory, and the snapshot after (R321). -/
def Obligations.StepInstructionIsOneStep : Prop :=
  ∀ s t : State, step s = .next t →
    ∃ u, command .stepInstruction s = .next (.steppedInstruction
        (if s.pc.toNat + 1 < s.params.memSize then
          some (disassembleWord (s.byteAt s.pc.toNat ++ s.byteAt (s.pc.toNat + 1))) else none)
        u.snapshot (if t.fault.valid = true then .engineError t.fault.kind else .ok), u) ∧
      u = { t with mode := .halted }

/-- The engine's own step ignores `MODE` and `BP` and never changes them: it does the same whatever they are
(R323, R40, R41). -/
def Obligations.StepIgnoresModeAndBreakpoints : Prop :=
  ∀ (s t : State) (m : RunMode) (bp : List Word), step s = .next t →
    t.mode = s.mode ∧ t.bp = s.bp ∧
    step { s with mode := m, bp := bp } = .next { t with mode := m, bp := bp }

/-- `DISASSEMBLE`, `DUMP_REGISTERS` and `DUMP_MEMORY` answer what the rules say and change no state (R324, R325,
R326). -/
def Obligations.IntrospectionReadsAndChangesNothing : Prop :=
  ∀ (s : State) (addr : Word) (lo hi : Nat),
    (addr.toNat + 1 < s.params.memSize → command (.disassemble addr) s =
      .next (.disassembly (disassembleWord (s.byteAt addr.toNat ++ s.byteAt (addr.toNat + 1))), s)) ∧
    (s.params.memSize ≤ addr.toNat + 1 → command (.disassemble addr) s = .next (.outOfBounds, s)) ∧
    (∃ snap, command .dumpRegisters s = .next (.registers snap, s) ∧ snap.v = s.v ∧ snap.i = s.i ∧
      snap.pc = s.pc ∧ snap.sp = s.sp ∧ snap.stack = s.stack ∧ snap.dt = s.dt ∧ snap.st = s.st ∧
      snap.mode = s.mode ∧ snap.fault = s.fault) ∧
    (lo ≤ hi → hi ≤ s.params.memSize → ∃ dump, command (.dumpMemory lo hi) s = .next (.bytes dump, s) ∧
      dump.length = hi - lo ∧ ∀ k, k < hi - lo → dump[k]? = some (s.byteAt (lo + k))) ∧
    (hi < lo ∨ s.params.memSize < hi → command (.dumpMemory lo hi) s = .next (.outOfBounds, s))

/-- `READ_FB`: `DISP_W * DISP_H` booleans, row-major, and no change of state (R313). -/
def Obligations.ReadFramebufferIsRowMajor : Prop :=
  ∀ s : State, displayShaped s.params s.fb →
    ∃ grid, command .readFb s = .next (.pixels grid, s) ∧ grid.length = s.params.dispW * s.params.dispH ∧
      ∀ px py, px < s.params.dispW → py < s.params.dispH →
        grid[py * s.params.dispW + px]? = some (pixelAt s.fb px py)

/-- A PARKED state stays as it is at every step, faulted or not; a WAITING state has not faulted and is not left
by a step: `pc` and every register stay, no fault is latched, and under `LEVEL` nothing changes at all (R328,
R141, R149, R151). -/
def Obligations.ParkedAndWaitingStatesStay : Prop :=
  ∀ s : State,
    (s.parked = true → step s = .next s) ∧
    (s.waiting = true → s.faulted = false ∧ ∃ t, step s = .next t ∧ t.pc = s.pc ∧ t.v = s.v ∧ t.fault.valid = false ∧
      (s.params.keyWaitTrigger = .level → t = s))
end

