-- ==== Sys2Proof/Laws/Decode.lean ====
section
/-! SUPPORT. The fields of a packed word (spec/30_encoding.md R100, R102): the encoder's three layouts are read
back field by field, so that no proof about decoding unfolds a bit extraction. -/

namespace Sys2Proof

@[simp] theorem opField_packNNN (op : BitVec 4) (nnn : BitVec 12) : opField (packNNN op nnn) = op := by
  unfold opField packNNN
  exact BitVec.extractLsb'_append_eq_left

@[simp] theorem nnnField_packNNN (op : BitVec 4) (nnn : BitVec 12) : nnnField (packNNN op nnn) = nnn := by
  unfold nnnField packNNN
  exact BitVec.extractLsb'_append_eq_right

/-- The bits of a word in format `XKK`. -/
theorem getLsbD_packXKK (op : BitVec 4) (x : RegName) (kk : Byte) (i : Nat) :
    (packXKK op x kk).getLsbD i =
      if i < 8 then kk.getLsbD i
      else if i < 12 then (BitVec.ofFin x : BitVec 4).getLsbD (i - 8) else op.getLsbD (i - 12) := by
  have h1 : (packXKK op x kk).getLsbD i =
      if i < 12 then ((BitVec.ofFin x : BitVec 4) ++ kk).getLsbD i else op.getLsbD (i - 12) :=
    BitVec.getLsbD_append
  rw [h1, BitVec.getLsbD_append]
  by_cases h : i < 8
  · simp [h, show i < 12 by omega]
  · by_cases h' : i < 12 <;> simp [h, h']

/-- The bits of a word in format `XYN`. -/
theorem getLsbD_packXYN (op : BitVec 4) (x y : RegName) (n : BitVec 4) (i : Nat) :
    (packXYN op x y n).getLsbD i =
      if i < 4 then n.getLsbD i
      else if i < 8 then (BitVec.ofFin y : BitVec 4).getLsbD (i - 4)
      else if i < 12 then (BitVec.ofFin x : BitVec 4).getLsbD (i - 8) else op.getLsbD (i - 12) := by
  have h1 : (packXYN op x y n).getLsbD i =
      if i < 12 then ((BitVec.ofFin x : BitVec 4) ++ ((BitVec.ofFin y : BitVec 4) ++ n)).getLsbD i
      else op.getLsbD (i - 12) :=
    BitVec.getLsbD_append
  have h2 : ((BitVec.ofFin x : BitVec 4) ++ ((BitVec.ofFin y : BitVec 4) ++ n)).getLsbD i =
      if i < 8 then ((BitVec.ofFin y : BitVec 4) ++ n).getLsbD i
      else (BitVec.ofFin x : BitVec 4).getLsbD (i - 8) :=
    BitVec.getLsbD_append
  rw [h1, h2, BitVec.getLsbD_append]
  by_cases h4 : i < 4
  · simp [h4, show i < 8 by omega, show i < 12 by omega]
  · by_cases h8 : i < 8
    · simp [h4, h8, show i < 12 by omega]
    · by_cases h12 : i < 12 <;> simp [h4, h8, h12]

@[simp] theorem opField_packXKK (op : BitVec 4) (x : RegName) (kk : Byte) : opField (packXKK op x kk) = op := by
  unfold opField packXKK
  exact BitVec.extractLsb'_append_eq_left

@[simp] theorem kkField_packXKK (op : BitVec 4) (x : RegName) (kk : Byte) : kkField (packXKK op x kk) = kk := by
  apply BitVec.eq_of_getLsbD_eq
  intro i hi
  simp [kkField, getLsbD_packXKK, hi]

@[simp] theorem xField_packXKK (op : BitVec 4) (x : RegName) (kk : Byte) : xField (packXKK op x kk) = x := by
  have h : (packXKK op x kk).extractLsb' 8 4 = BitVec.ofFin x := by
    apply BitVec.eq_of_getLsbD_eq
    intro i hi
    rw [BitVec.getLsbD_extractLsb', getLsbD_packXKK, if_neg (by omega), if_pos (by omega)]
    simp [hi]
  simp [xField, h]

@[simp] theorem opField_packXYN (op : BitVec 4) (x y : RegName) (n : BitVec 4) :
    opField (packXYN op x y n) = op := by
  unfold opField packXYN
  exact BitVec.extractLsb'_append_eq_left

@[simp] theorem nField_packXYN (op : BitVec 4) (x y : RegName) (n : BitVec 4) : nField (packXYN op x y n) = n := by
  apply BitVec.eq_of_getLsbD_eq
  intro i hi
  simp [nField, getLsbD_packXYN, hi]

@[simp] theorem xField_packXYN (op : BitVec 4) (x y : RegName) (n : BitVec 4) : xField (packXYN op x y n) = x := by
  have h : (packXYN op x y n).extractLsb' 8 4 = BitVec.ofFin x := by
    apply BitVec.eq_of_getLsbD_eq
    intro i hi
    rw [BitVec.getLsbD_extractLsb', getLsbD_packXYN, if_neg (by omega), if_neg (by omega), if_pos (by omega)]
    simp [hi]
  simp [xField, h]

@[simp] theorem yField_packXYN (op : BitVec 4) (x y : RegName) (n : BitVec 4) : yField (packXYN op x y n) = y := by
  have h : (packXYN op x y n).extractLsb' 4 4 = BitVec.ofFin y := by
    apply BitVec.eq_of_getLsbD_eq
    intro i hi
    rw [BitVec.getLsbD_extractLsb', getLsbD_packXYN, if_neg (by omega), if_pos (by omega)]
    simp [hi]
  simp [yField, h]

/-- A word is its family nibble and its address field. -/
theorem packNNN_fields (w : Word) : packNNN (opField w) (nnnField w) = w := by
  unfold packNNN opField nnnField
  ext i hi
  simp only [BitVec.getElem_append, BitVec.getElem_extractLsb']
  split
  · simp [BitVec.getLsbD_eq_getElem, hi]
  · simp [BitVec.getLsbD_eq_getElem, show 12 + (i - 12) = i by omega, hi]

/-- A word is its family nibble, its register field and its byte. -/
theorem packXKK_fields (w : Word) : packXKK (opField w) (xField w) (kkField w) = w := by
  unfold packXKK opField xField kkField
  ext i hi
  simp only [BitVec.getElem_append, BitVec.ofFin_toFin, BitVec.getElem_extractLsb']
  split
  · split
    · simp [BitVec.getLsbD_eq_getElem, hi]
    · simp [BitVec.getLsbD_eq_getElem, show 8 + (i - 8) = i by omega, hi]
  · simp [BitVec.getLsbD_eq_getElem, show 12 + (i - 12) = i by omega, hi]

/-- A word is its four nibbles. -/
theorem packXYN_fields (w : Word) : packXYN (opField w) (xField w) (yField w) (nField w) = w := by
  unfold packXYN opField xField yField nField
  ext i hi
  simp only [BitVec.getElem_append, BitVec.ofFin_toFin, BitVec.getElem_extractLsb']
  split
  · split
    · split
      · simp [BitVec.getLsbD_eq_getElem, hi]
      · simp [BitVec.getLsbD_eq_getElem, show 4 + (i - 4) = i by omega, hi]
    · simp [BitVec.getLsbD_eq_getElem, show 8 + (i - 8) = i by omega, hi]
  · simp [BitVec.getLsbD_eq_getElem, show 12 + (i - 12) = i by omega, hi]

/-! ### Words written out as numbers -/

theorem toNat_packNNN (op : BitVec 4) (nnn : BitVec 12) :
    (packNNN op nnn).toNat = op.toNat * 0x1000 + nnn.toNat := by
  have h : (packNNN op nnn).toNat = op.toNat <<< 12 ||| nnn.toNat := BitVec.toNat_append op nnn
  rw [h, ← Nat.shiftLeft_add_eq_or_of_lt nnn.isLt, Nat.shiftLeft_eq]

theorem toNat_packXKK (op : BitVec 4) (x : RegName) (kk : Byte) :
    (packXKK op x kk).toNat = op.toNat * 0x1000 + x.val * 0x100 + kk.toNat := by
  have h1 : ((BitVec.ofFin x : BitVec 4) ++ kk).toNat = x.val * 0x100 + kk.toNat := by
    rw [BitVec.toNat_append, ← Nat.shiftLeft_add_eq_or_of_lt kk.isLt, Nat.shiftLeft_eq]
    rfl
  have h : (packXKK op x kk).toNat = op.toNat <<< 12 ||| ((BitVec.ofFin x : BitVec 4) ++ kk).toNat :=
    BitVec.toNat_append op _
  rw [h, ← Nat.shiftLeft_add_eq_or_of_lt (BitVec.isLt _), Nat.shiftLeft_eq, h1]
  omega

theorem toNat_packXYN (op : BitVec 4) (x y : RegName) (n : BitVec 4) :
    (packXYN op x y n).toNat = op.toNat * 0x1000 + x.val * 0x100 + y.val * 0x10 + n.toNat := by
  have h1 : ((BitVec.ofFin y : BitVec 4) ++ n).toNat = y.val * 0x10 + n.toNat := by
    rw [BitVec.toNat_append, ← Nat.shiftLeft_add_eq_or_of_lt n.isLt, Nat.shiftLeft_eq]
    rfl
  have h2 : ((BitVec.ofFin x : BitVec 4) ++ ((BitVec.ofFin y : BitVec 4) ++ n)).toNat =
      x.val * 0x100 + (y.val * 0x10 + n.toNat) := by
    rw [BitVec.toNat_append, ← Nat.shiftLeft_add_eq_or_of_lt (BitVec.isLt _), Nat.shiftLeft_eq, h1]
    rfl
  have h : (packXYN op x y n).toNat =
      op.toNat <<< 12 ||| ((BitVec.ofFin x : BitVec 4) ++ ((BitVec.ofFin y : BitVec 4) ++ n)).toNat :=
    BitVec.toNat_append op _
  rw [h, ← Nat.shiftLeft_add_eq_or_of_lt (BitVec.isLt _), Nat.shiftLeft_eq, h2]
  omega

/-- A word written out as a number is the word the encoder's layout packs. -/
theorem Machine.wordNNN_eq {op : Nat} (h : op < 16) (nnn : BitVec 12) :
    Machine.wordNNN op nnn = packNNN (BitVec.ofNat 4 op) nnn := by
  have ht : (BitVec.ofNat 4 op).toNat = op := by rw [BitVec.toNat_ofNat]; omega
  have e := toNat_packNNN (BitVec.ofNat 4 op) nnn
  rw [ht] at e
  rw [Machine.wordNNN, ← e, BitVec.ofNat_toNat, BitVec.setWidth_eq]

theorem Machine.wordXKK_eq {op : Nat} (h : op < 16) (x : RegName) (kk : Byte) :
    Machine.wordXKK op x kk = packXKK (BitVec.ofNat 4 op) x kk := by
  have ht : (BitVec.ofNat 4 op).toNat = op := by rw [BitVec.toNat_ofNat]; omega
  have e := toNat_packXKK (BitVec.ofNat 4 op) x kk
  rw [ht] at e
  rw [Machine.wordXKK, ← e, BitVec.ofNat_toNat, BitVec.setWidth_eq]

theorem Machine.wordXYN_eq {op : Nat} (h : op < 16) (x y : RegName) (n : BitVec 4) :
    Machine.wordXYN op x y n = packXYN (BitVec.ofNat 4 op) x y n := by
  have ht : (BitVec.ofNat 4 op).toNat = op := by rw [BitVec.toNat_ofNat]; omega
  have e := toNat_packXYN (BitVec.ofNat 4 op) x y n
  rw [ht] at e
  rw [Machine.wordXYN, ← e, BitVec.ofNat_toNat, BitVec.setWidth_eq]

/-- The two bytes of a word make the word again (R75). -/
@[simp] theorem wordOfBytes_bytes (w : Word) : wordOfBytes (w.extractLsb' 8 8) (w.extractLsb' 0 8) = w := by
  unfold wordOfBytes
  ext i hi
  simp only [BitVec.getElem_append, BitVec.getElem_extractLsb']
  split
  · simp [BitVec.getLsbD_eq_getElem, hi]
  · simp [BitVec.getLsbD_eq_getElem, show 8 + (i - 8) = i by omega, hi]

end Sys2Proof
end

