-- ==== Sys2Proof/Laws/State.lean ====
section
/-! SUPPORT. One lemma per field per update of the state, so that no proof unfolds a record update; and the
register and memory reads after each update. -/

namespace Sys2Proof.Machine

/-! ### `setReg` -/

@[simp] theorem State.setReg_v (s : State) (r : RegName) (b : Byte) : (s.setReg r b).v = s.v.set r.val b := rfl
@[simp] theorem State.setReg_i (s : State) (r : RegName) (b : Byte) : (s.setReg r b).i = s.i := rfl
@[simp] theorem State.setReg_pc (s : State) (r : RegName) (b : Byte) : (s.setReg r b).pc = s.pc := rfl
@[simp] theorem State.setReg_sp (s : State) (r : RegName) (b : Byte) : (s.setReg r b).sp = s.sp := rfl
@[simp] theorem State.setReg_stack (s : State) (r : RegName) (b : Byte) : (s.setReg r b).stack = s.stack := rfl
@[simp] theorem State.setReg_dt (s : State) (r : RegName) (b : Byte) : (s.setReg r b).dt = s.dt := rfl
@[simp] theorem State.setReg_st (s : State) (r : RegName) (b : Byte) : (s.setReg r b).st = s.st := rfl
@[simp] theorem State.setReg_fb (s : State) (r : RegName) (b : Byte) : (s.setReg r b).fb = s.fb := rfl
@[simp] theorem State.setReg_key (s : State) (r : RegName) (b : Byte) : (s.setReg r b).key = s.key := rfl
@[simp] theorem State.setReg_waitArmed (s : State) (r : RegName) (b : Byte) : (s.setReg r b).waitArmed = s.waitArmed := rfl
@[simp] theorem State.setReg_keyEvents (s : State) (r : RegName) (b : Byte) : (s.setReg r b).keyEvents = s.keyEvents := rfl
@[simp] theorem State.setReg_bp (s : State) (r : RegName) (b : Byte) : (s.setReg r b).bp = s.bp := rfl
@[simp] theorem State.setReg_mode (s : State) (r : RegName) (b : Byte) : (s.setReg r b).mode = s.mode := rfl
@[simp] theorem State.setReg_fault (s : State) (r : RegName) (b : Byte) : (s.setReg r b).fault = s.fault := rfl
@[simp] theorem State.setReg_mem (s : State) (r : RegName) (b : Byte) : (s.setReg r b).mem = s.mem := rfl
@[simp] theorem State.setReg_params (s : State) (r : RegName) (b : Byte) : (s.setReg r b).params = s.params := rfl
@[simp] theorem State.setReg_rngDraws (s : State) (r : RegName) (b : Byte) : (s.setReg r b).rngDraws = s.rngDraws := rfl
@[simp] theorem State.setReg_byteAt (s : State) (r : RegName) (b : Byte) (n : Nat) : (s.setReg r b).byteAt n = s.byteAt n := rfl

/-! ### `setI` -/

@[simp] theorem State.setI_v (s : State) (a : Word) : (s.setI a).v = s.v := rfl
@[simp] theorem State.setI_i (s : State) (a : Word) : (s.setI a).i = a := rfl
@[simp] theorem State.setI_pc (s : State) (a : Word) : (s.setI a).pc = s.pc := rfl
@[simp] theorem State.setI_sp (s : State) (a : Word) : (s.setI a).sp = s.sp := rfl
@[simp] theorem State.setI_stack (s : State) (a : Word) : (s.setI a).stack = s.stack := rfl
@[simp] theorem State.setI_dt (s : State) (a : Word) : (s.setI a).dt = s.dt := rfl
@[simp] theorem State.setI_st (s : State) (a : Word) : (s.setI a).st = s.st := rfl
@[simp] theorem State.setI_fb (s : State) (a : Word) : (s.setI a).fb = s.fb := rfl
@[simp] theorem State.setI_key (s : State) (a : Word) : (s.setI a).key = s.key := rfl
@[simp] theorem State.setI_waitArmed (s : State) (a : Word) : (s.setI a).waitArmed = s.waitArmed := rfl
@[simp] theorem State.setI_keyEvents (s : State) (a : Word) : (s.setI a).keyEvents = s.keyEvents := rfl
@[simp] theorem State.setI_bp (s : State) (a : Word) : (s.setI a).bp = s.bp := rfl
@[simp] theorem State.setI_mode (s : State) (a : Word) : (s.setI a).mode = s.mode := rfl
@[simp] theorem State.setI_fault (s : State) (a : Word) : (s.setI a).fault = s.fault := rfl
@[simp] theorem State.setI_mem (s : State) (a : Word) : (s.setI a).mem = s.mem := rfl
@[simp] theorem State.setI_params (s : State) (a : Word) : (s.setI a).params = s.params := rfl
@[simp] theorem State.setI_rngDraws (s : State) (a : Word) : (s.setI a).rngDraws = s.rngDraws := rfl
@[simp] theorem State.setI_reg (s : State) (a : Word) (q : RegName) : (s.setI a).reg q = s.reg q := rfl
@[simp] theorem State.setI_byteAt (s : State) (a : Word) (n : Nat) : (s.setI a).byteAt n = s.byteAt n := rfl

/-! ### `setPc` -/

@[simp] theorem State.setPc_v (s : State) (a : Word) : (s.setPc a).v = s.v := rfl
@[simp] theorem State.setPc_i (s : State) (a : Word) : (s.setPc a).i = s.i := rfl
@[simp] theorem State.setPc_pc (s : State) (a : Word) : (s.setPc a).pc = a := rfl
@[simp] theorem State.setPc_sp (s : State) (a : Word) : (s.setPc a).sp = s.sp := rfl
@[simp] theorem State.setPc_stack (s : State) (a : Word) : (s.setPc a).stack = s.stack := rfl
@[simp] theorem State.setPc_dt (s : State) (a : Word) : (s.setPc a).dt = s.dt := rfl
@[simp] theorem State.setPc_st (s : State) (a : Word) : (s.setPc a).st = s.st := rfl
@[simp] theorem State.setPc_fb (s : State) (a : Word) : (s.setPc a).fb = s.fb := rfl
@[simp] theorem State.setPc_key (s : State) (a : Word) : (s.setPc a).key = s.key := rfl
@[simp] theorem State.setPc_waitArmed (s : State) (a : Word) : (s.setPc a).waitArmed = s.waitArmed := rfl
@[simp] theorem State.setPc_keyEvents (s : State) (a : Word) : (s.setPc a).keyEvents = s.keyEvents := rfl
@[simp] theorem State.setPc_bp (s : State) (a : Word) : (s.setPc a).bp = s.bp := rfl
@[simp] theorem State.setPc_mode (s : State) (a : Word) : (s.setPc a).mode = s.mode := rfl
@[simp] theorem State.setPc_fault (s : State) (a : Word) : (s.setPc a).fault = s.fault := rfl
@[simp] theorem State.setPc_mem (s : State) (a : Word) : (s.setPc a).mem = s.mem := rfl
@[simp] theorem State.setPc_params (s : State) (a : Word) : (s.setPc a).params = s.params := rfl
@[simp] theorem State.setPc_rngDraws (s : State) (a : Word) : (s.setPc a).rngDraws = s.rngDraws := rfl
@[simp] theorem State.setPc_reg (s : State) (a : Word) (q : RegName) : (s.setPc a).reg q = s.reg q := rfl
@[simp] theorem State.setPc_byteAt (s : State) (a : Word) (n : Nat) : (s.setPc a).byteAt n = s.byteAt n := rfl

/-! ### `advance` -/

@[simp] theorem State.advance_v (s : State) : (s.advance).v = s.v := rfl
@[simp] theorem State.advance_i (s : State) : (s.advance).i = s.i := rfl
@[simp] theorem State.advance_pc (s : State) : (s.advance).pc = s.pc + 2 := rfl
@[simp] theorem State.advance_sp (s : State) : (s.advance).sp = s.sp := rfl
@[simp] theorem State.advance_stack (s : State) : (s.advance).stack = s.stack := rfl
@[simp] theorem State.advance_dt (s : State) : (s.advance).dt = s.dt := rfl
@[simp] theorem State.advance_st (s : State) : (s.advance).st = s.st := rfl
@[simp] theorem State.advance_fb (s : State) : (s.advance).fb = s.fb := rfl
@[simp] theorem State.advance_key (s : State) : (s.advance).key = s.key := rfl
@[simp] theorem State.advance_waitArmed (s : State) : (s.advance).waitArmed = s.waitArmed := rfl
@[simp] theorem State.advance_keyEvents (s : State) : (s.advance).keyEvents = s.keyEvents := rfl
@[simp] theorem State.advance_bp (s : State) : (s.advance).bp = s.bp := rfl
@[simp] theorem State.advance_mode (s : State) : (s.advance).mode = s.mode := rfl
@[simp] theorem State.advance_fault (s : State) : (s.advance).fault = s.fault := rfl
@[simp] theorem State.advance_mem (s : State) : (s.advance).mem = s.mem := rfl
@[simp] theorem State.advance_params (s : State) : (s.advance).params = s.params := rfl
@[simp] theorem State.advance_rngDraws (s : State) : (s.advance).rngDraws = s.rngDraws := rfl
@[simp] theorem State.advance_reg (s : State) (q : RegName) : (s.advance).reg q = s.reg q := rfl
@[simp] theorem State.advance_byteAt (s : State) (n : Nat) : (s.advance).byteAt n = s.byteAt n := rfl

/-! ### `skip` -/

@[simp] theorem State.skip_v (s : State) : (s.skip).v = s.v := rfl
@[simp] theorem State.skip_i (s : State) : (s.skip).i = s.i := rfl
@[simp] theorem State.skip_pc (s : State) : (s.skip).pc = s.pc + 2 := rfl
@[simp] theorem State.skip_sp (s : State) : (s.skip).sp = s.sp := rfl
@[simp] theorem State.skip_stack (s : State) : (s.skip).stack = s.stack := rfl
@[simp] theorem State.skip_dt (s : State) : (s.skip).dt = s.dt := rfl
@[simp] theorem State.skip_st (s : State) : (s.skip).st = s.st := rfl
@[simp] theorem State.skip_fb (s : State) : (s.skip).fb = s.fb := rfl
@[simp] theorem State.skip_key (s : State) : (s.skip).key = s.key := rfl
@[simp] theorem State.skip_waitArmed (s : State) : (s.skip).waitArmed = s.waitArmed := rfl
@[simp] theorem State.skip_keyEvents (s : State) : (s.skip).keyEvents = s.keyEvents := rfl
@[simp] theorem State.skip_bp (s : State) : (s.skip).bp = s.bp := rfl
@[simp] theorem State.skip_mode (s : State) : (s.skip).mode = s.mode := rfl
@[simp] theorem State.skip_fault (s : State) : (s.skip).fault = s.fault := rfl
@[simp] theorem State.skip_mem (s : State) : (s.skip).mem = s.mem := rfl
@[simp] theorem State.skip_params (s : State) : (s.skip).params = s.params := rfl
@[simp] theorem State.skip_rngDraws (s : State) : (s.skip).rngDraws = s.rngDraws := rfl
@[simp] theorem State.skip_reg (s : State) (q : RegName) : (s.skip).reg q = s.reg q := rfl
@[simp] theorem State.skip_byteAt (s : State) (n : Nat) : (s.skip).byteAt n = s.byteAt n := rfl

/-! ### `reexecute` -/

@[simp] theorem State.reexecute_v (s : State) : (s.reexecute).v = s.v := rfl
@[simp] theorem State.reexecute_i (s : State) : (s.reexecute).i = s.i := rfl
@[simp] theorem State.reexecute_pc (s : State) : (s.reexecute).pc = s.pc - 2 := rfl
@[simp] theorem State.reexecute_sp (s : State) : (s.reexecute).sp = s.sp := rfl
@[simp] theorem State.reexecute_stack (s : State) : (s.reexecute).stack = s.stack := rfl
@[simp] theorem State.reexecute_dt (s : State) : (s.reexecute).dt = s.dt := rfl
@[simp] theorem State.reexecute_st (s : State) : (s.reexecute).st = s.st := rfl
@[simp] theorem State.reexecute_fb (s : State) : (s.reexecute).fb = s.fb := rfl
@[simp] theorem State.reexecute_key (s : State) : (s.reexecute).key = s.key := rfl
@[simp] theorem State.reexecute_waitArmed (s : State) : (s.reexecute).waitArmed = s.waitArmed := rfl
@[simp] theorem State.reexecute_keyEvents (s : State) : (s.reexecute).keyEvents = s.keyEvents := rfl
@[simp] theorem State.reexecute_bp (s : State) : (s.reexecute).bp = s.bp := rfl
@[simp] theorem State.reexecute_mode (s : State) : (s.reexecute).mode = s.mode := rfl
@[simp] theorem State.reexecute_fault (s : State) : (s.reexecute).fault = s.fault := rfl
@[simp] theorem State.reexecute_mem (s : State) : (s.reexecute).mem = s.mem := rfl
@[simp] theorem State.reexecute_params (s : State) : (s.reexecute).params = s.params := rfl
@[simp] theorem State.reexecute_rngDraws (s : State) : (s.reexecute).rngDraws = s.rngDraws := rfl
@[simp] theorem State.reexecute_reg (s : State) (q : RegName) : (s.reexecute).reg q = s.reg q := rfl
@[simp] theorem State.reexecute_byteAt (s : State) (n : Nat) : (s.reexecute).byteAt n = s.byteAt n := rfl

/-! ### `pushReturn` -/

@[simp] theorem State.pushReturn_v (s : State) (k : Fin 16) : (s.pushReturn k).v = s.v := rfl
@[simp] theorem State.pushReturn_i (s : State) (k : Fin 16) : (s.pushReturn k).i = s.i := rfl
@[simp] theorem State.pushReturn_pc (s : State) (k : Fin 16) : (s.pushReturn k).pc = s.pc := rfl
@[simp] theorem State.pushReturn_sp (s : State) (k : Fin 16) : (s.pushReturn k).sp = s.sp + 1 := rfl
@[simp] theorem State.pushReturn_stack (s : State) (k : Fin 16) : (s.pushReturn k).stack = s.stack.set k.val s.pc := rfl
@[simp] theorem State.pushReturn_dt (s : State) (k : Fin 16) : (s.pushReturn k).dt = s.dt := rfl
@[simp] theorem State.pushReturn_st (s : State) (k : Fin 16) : (s.pushReturn k).st = s.st := rfl
@[simp] theorem State.pushReturn_fb (s : State) (k : Fin 16) : (s.pushReturn k).fb = s.fb := rfl
@[simp] theorem State.pushReturn_key (s : State) (k : Fin 16) : (s.pushReturn k).key = s.key := rfl
@[simp] theorem State.pushReturn_waitArmed (s : State) (k : Fin 16) : (s.pushReturn k).waitArmed = s.waitArmed := rfl
@[simp] theorem State.pushReturn_keyEvents (s : State) (k : Fin 16) : (s.pushReturn k).keyEvents = s.keyEvents := rfl
@[simp] theorem State.pushReturn_bp (s : State) (k : Fin 16) : (s.pushReturn k).bp = s.bp := rfl
@[simp] theorem State.pushReturn_mode (s : State) (k : Fin 16) : (s.pushReturn k).mode = s.mode := rfl
@[simp] theorem State.pushReturn_fault (s : State) (k : Fin 16) : (s.pushReturn k).fault = s.fault := rfl
@[simp] theorem State.pushReturn_mem (s : State) (k : Fin 16) : (s.pushReturn k).mem = s.mem := rfl
@[simp] theorem State.pushReturn_params (s : State) (k : Fin 16) : (s.pushReturn k).params = s.params := rfl
@[simp] theorem State.pushReturn_rngDraws (s : State) (k : Fin 16) : (s.pushReturn k).rngDraws = s.rngDraws := rfl
@[simp] theorem State.pushReturn_reg (s : State) (k : Fin 16) (q : RegName) : (s.pushReturn k).reg q = s.reg q := rfl
@[simp] theorem State.pushReturn_byteAt (s : State) (k : Fin 16) (n : Nat) : (s.pushReturn k).byteAt n = s.byteAt n := rfl

/-! ### `popReturn` -/

@[simp] theorem State.popReturn_v (s : State) (k : Fin 16) : (s.popReturn k).v = s.v := rfl
@[simp] theorem State.popReturn_i (s : State) (k : Fin 16) : (s.popReturn k).i = s.i := rfl
@[simp] theorem State.popReturn_pc (s : State) (k : Fin 16) : (s.popReturn k).pc = s.stackEntry k := rfl
@[simp] theorem State.popReturn_sp (s : State) (k : Fin 16) : (s.popReturn k).sp = s.sp - 1 := rfl
@[simp] theorem State.popReturn_stack (s : State) (k : Fin 16) : (s.popReturn k).stack = s.stack := rfl
@[simp] theorem State.popReturn_dt (s : State) (k : Fin 16) : (s.popReturn k).dt = s.dt := rfl
@[simp] theorem State.popReturn_st (s : State) (k : Fin 16) : (s.popReturn k).st = s.st := rfl
@[simp] theorem State.popReturn_fb (s : State) (k : Fin 16) : (s.popReturn k).fb = s.fb := rfl
@[simp] theorem State.popReturn_key (s : State) (k : Fin 16) : (s.popReturn k).key = s.key := rfl
@[simp] theorem State.popReturn_waitArmed (s : State) (k : Fin 16) : (s.popReturn k).waitArmed = s.waitArmed := rfl
@[simp] theorem State.popReturn_keyEvents (s : State) (k : Fin 16) : (s.popReturn k).keyEvents = s.keyEvents := rfl
@[simp] theorem State.popReturn_bp (s : State) (k : Fin 16) : (s.popReturn k).bp = s.bp := rfl
@[simp] theorem State.popReturn_mode (s : State) (k : Fin 16) : (s.popReturn k).mode = s.mode := rfl
@[simp] theorem State.popReturn_fault (s : State) (k : Fin 16) : (s.popReturn k).fault = s.fault := rfl
@[simp] theorem State.popReturn_mem (s : State) (k : Fin 16) : (s.popReturn k).mem = s.mem := rfl
@[simp] theorem State.popReturn_params (s : State) (k : Fin 16) : (s.popReturn k).params = s.params := rfl
@[simp] theorem State.popReturn_rngDraws (s : State) (k : Fin 16) : (s.popReturn k).rngDraws = s.rngDraws := rfl
@[simp] theorem State.popReturn_reg (s : State) (k : Fin 16) (q : RegName) : (s.popReturn k).reg q = s.reg q := rfl
@[simp] theorem State.popReturn_byteAt (s : State) (k : Fin 16) (n : Nat) : (s.popReturn k).byteAt n = s.byteAt n := rfl

/-! ### `setDt` -/

@[simp] theorem State.setDt_v (s : State) (b : Byte) : (s.setDt b).v = s.v := rfl
@[simp] theorem State.setDt_i (s : State) (b : Byte) : (s.setDt b).i = s.i := rfl
@[simp] theorem State.setDt_pc (s : State) (b : Byte) : (s.setDt b).pc = s.pc := rfl
@[simp] theorem State.setDt_sp (s : State) (b : Byte) : (s.setDt b).sp = s.sp := rfl
@[simp] theorem State.setDt_stack (s : State) (b : Byte) : (s.setDt b).stack = s.stack := rfl
@[simp] theorem State.setDt_dt (s : State) (b : Byte) : (s.setDt b).dt = b := rfl
@[simp] theorem State.setDt_st (s : State) (b : Byte) : (s.setDt b).st = s.st := rfl
@[simp] theorem State.setDt_fb (s : State) (b : Byte) : (s.setDt b).fb = s.fb := rfl
@[simp] theorem State.setDt_key (s : State) (b : Byte) : (s.setDt b).key = s.key := rfl
@[simp] theorem State.setDt_waitArmed (s : State) (b : Byte) : (s.setDt b).waitArmed = s.waitArmed := rfl
@[simp] theorem State.setDt_keyEvents (s : State) (b : Byte) : (s.setDt b).keyEvents = s.keyEvents := rfl
@[simp] theorem State.setDt_bp (s : State) (b : Byte) : (s.setDt b).bp = s.bp := rfl
@[simp] theorem State.setDt_mode (s : State) (b : Byte) : (s.setDt b).mode = s.mode := rfl
@[simp] theorem State.setDt_fault (s : State) (b : Byte) : (s.setDt b).fault = s.fault := rfl
@[simp] theorem State.setDt_mem (s : State) (b : Byte) : (s.setDt b).mem = s.mem := rfl
@[simp] theorem State.setDt_params (s : State) (b : Byte) : (s.setDt b).params = s.params := rfl
@[simp] theorem State.setDt_rngDraws (s : State) (b : Byte) : (s.setDt b).rngDraws = s.rngDraws := rfl
@[simp] theorem State.setDt_reg (s : State) (b : Byte) (q : RegName) : (s.setDt b).reg q = s.reg q := rfl
@[simp] theorem State.setDt_byteAt (s : State) (b : Byte) (n : Nat) : (s.setDt b).byteAt n = s.byteAt n := rfl

/-! ### `setSt` -/

@[simp] theorem State.setSt_v (s : State) (b : Byte) : (s.setSt b).v = s.v := rfl
@[simp] theorem State.setSt_i (s : State) (b : Byte) : (s.setSt b).i = s.i := rfl
@[simp] theorem State.setSt_pc (s : State) (b : Byte) : (s.setSt b).pc = s.pc := rfl
@[simp] theorem State.setSt_sp (s : State) (b : Byte) : (s.setSt b).sp = s.sp := rfl
@[simp] theorem State.setSt_stack (s : State) (b : Byte) : (s.setSt b).stack = s.stack := rfl
@[simp] theorem State.setSt_dt (s : State) (b : Byte) : (s.setSt b).dt = s.dt := rfl
@[simp] theorem State.setSt_st (s : State) (b : Byte) : (s.setSt b).st = b := rfl
@[simp] theorem State.setSt_fb (s : State) (b : Byte) : (s.setSt b).fb = s.fb := rfl
@[simp] theorem State.setSt_key (s : State) (b : Byte) : (s.setSt b).key = s.key := rfl
@[simp] theorem State.setSt_waitArmed (s : State) (b : Byte) : (s.setSt b).waitArmed = s.waitArmed := rfl
@[simp] theorem State.setSt_keyEvents (s : State) (b : Byte) : (s.setSt b).keyEvents = s.keyEvents := rfl
@[simp] theorem State.setSt_bp (s : State) (b : Byte) : (s.setSt b).bp = s.bp := rfl
@[simp] theorem State.setSt_mode (s : State) (b : Byte) : (s.setSt b).mode = s.mode := rfl
@[simp] theorem State.setSt_fault (s : State) (b : Byte) : (s.setSt b).fault = s.fault := rfl
@[simp] theorem State.setSt_mem (s : State) (b : Byte) : (s.setSt b).mem = s.mem := rfl
@[simp] theorem State.setSt_params (s : State) (b : Byte) : (s.setSt b).params = s.params := rfl
@[simp] theorem State.setSt_rngDraws (s : State) (b : Byte) : (s.setSt b).rngDraws = s.rngDraws := rfl
@[simp] theorem State.setSt_reg (s : State) (b : Byte) (q : RegName) : (s.setSt b).reg q = s.reg q := rfl
@[simp] theorem State.setSt_byteAt (s : State) (b : Byte) (n : Nat) : (s.setSt b).byteAt n = s.byteAt n := rfl

/-! ### `writeBlock` -/

@[simp] theorem State.writeBlock_v (s : State) (a : Nat) (bs : List Byte) : (s.writeBlock a bs).v = s.v := rfl
@[simp] theorem State.writeBlock_i (s : State) (a : Nat) (bs : List Byte) : (s.writeBlock a bs).i = s.i := rfl
@[simp] theorem State.writeBlock_pc (s : State) (a : Nat) (bs : List Byte) : (s.writeBlock a bs).pc = s.pc := rfl
@[simp] theorem State.writeBlock_sp (s : State) (a : Nat) (bs : List Byte) : (s.writeBlock a bs).sp = s.sp := rfl
@[simp] theorem State.writeBlock_stack (s : State) (a : Nat) (bs : List Byte) : (s.writeBlock a bs).stack = s.stack := rfl
@[simp] theorem State.writeBlock_dt (s : State) (a : Nat) (bs : List Byte) : (s.writeBlock a bs).dt = s.dt := rfl
@[simp] theorem State.writeBlock_st (s : State) (a : Nat) (bs : List Byte) : (s.writeBlock a bs).st = s.st := rfl
@[simp] theorem State.writeBlock_fb (s : State) (a : Nat) (bs : List Byte) : (s.writeBlock a bs).fb = s.fb := rfl
@[simp] theorem State.writeBlock_key (s : State) (a : Nat) (bs : List Byte) : (s.writeBlock a bs).key = s.key := rfl
@[simp] theorem State.writeBlock_waitArmed (s : State) (a : Nat) (bs : List Byte) : (s.writeBlock a bs).waitArmed = s.waitArmed := rfl
@[simp] theorem State.writeBlock_keyEvents (s : State) (a : Nat) (bs : List Byte) : (s.writeBlock a bs).keyEvents = s.keyEvents := rfl
@[simp] theorem State.writeBlock_bp (s : State) (a : Nat) (bs : List Byte) : (s.writeBlock a bs).bp = s.bp := rfl
@[simp] theorem State.writeBlock_mode (s : State) (a : Nat) (bs : List Byte) : (s.writeBlock a bs).mode = s.mode := rfl
@[simp] theorem State.writeBlock_fault (s : State) (a : Nat) (bs : List Byte) : (s.writeBlock a bs).fault = s.fault := rfl
@[simp] theorem State.writeBlock_mem (s : State) (a : Nat) (bs : List Byte) : (s.writeBlock a bs).mem = Memory.putAll s.params s.mem a bs := rfl
@[simp] theorem State.writeBlock_params (s : State) (a : Nat) (bs : List Byte) : (s.writeBlock a bs).params = s.params := rfl
@[simp] theorem State.writeBlock_rngDraws (s : State) (a : Nat) (bs : List Byte) : (s.writeBlock a bs).rngDraws = s.rngDraws := rfl
@[simp] theorem State.writeBlock_reg (s : State) (a : Nat) (bs : List Byte) (q : RegName) : (s.writeBlock a bs).reg q = s.reg q := rfl

/-! ### `loadRegsThrough` -/

@[simp] theorem State.loadRegsThrough_i (s : State) (x : RegName) (a : Nat) : (s.loadRegsThrough x a).i = s.i := rfl
@[simp] theorem State.loadRegsThrough_pc (s : State) (x : RegName) (a : Nat) : (s.loadRegsThrough x a).pc = s.pc := rfl
@[simp] theorem State.loadRegsThrough_sp (s : State) (x : RegName) (a : Nat) : (s.loadRegsThrough x a).sp = s.sp := rfl
@[simp] theorem State.loadRegsThrough_stack (s : State) (x : RegName) (a : Nat) : (s.loadRegsThrough x a).stack = s.stack := rfl
@[simp] theorem State.loadRegsThrough_dt (s : State) (x : RegName) (a : Nat) : (s.loadRegsThrough x a).dt = s.dt := rfl
@[simp] theorem State.loadRegsThrough_st (s : State) (x : RegName) (a : Nat) : (s.loadRegsThrough x a).st = s.st := rfl
@[simp] theorem State.loadRegsThrough_fb (s : State) (x : RegName) (a : Nat) : (s.loadRegsThrough x a).fb = s.fb := rfl
@[simp] theorem State.loadRegsThrough_key (s : State) (x : RegName) (a : Nat) : (s.loadRegsThrough x a).key = s.key := rfl
@[simp] theorem State.loadRegsThrough_waitArmed (s : State) (x : RegName) (a : Nat) : (s.loadRegsThrough x a).waitArmed = s.waitArmed := rfl
@[simp] theorem State.loadRegsThrough_keyEvents (s : State) (x : RegName) (a : Nat) : (s.loadRegsThrough x a).keyEvents = s.keyEvents := rfl
@[simp] theorem State.loadRegsThrough_bp (s : State) (x : RegName) (a : Nat) : (s.loadRegsThrough x a).bp = s.bp := rfl
@[simp] theorem State.loadRegsThrough_mode (s : State) (x : RegName) (a : Nat) : (s.loadRegsThrough x a).mode = s.mode := rfl
@[simp] theorem State.loadRegsThrough_fault (s : State) (x : RegName) (a : Nat) : (s.loadRegsThrough x a).fault = s.fault := rfl
@[simp] theorem State.loadRegsThrough_mem (s : State) (x : RegName) (a : Nat) : (s.loadRegsThrough x a).mem = s.mem := rfl
@[simp] theorem State.loadRegsThrough_params (s : State) (x : RegName) (a : Nat) : (s.loadRegsThrough x a).params = s.params := rfl
@[simp] theorem State.loadRegsThrough_rngDraws (s : State) (x : RegName) (a : Nat) : (s.loadRegsThrough x a).rngDraws = s.rngDraws := rfl
@[simp] theorem State.loadRegsThrough_byteAt (s : State) (x : RegName) (a : Nat) (n : Nat) : (s.loadRegsThrough x a).byteAt n = s.byteAt n := rfl

/-! ### `setFb` -/

@[simp] theorem State.setFb_v (s : State) (fb : List (List Bool)) : (s.setFb fb).v = s.v := rfl
@[simp] theorem State.setFb_i (s : State) (fb : List (List Bool)) : (s.setFb fb).i = s.i := rfl
@[simp] theorem State.setFb_pc (s : State) (fb : List (List Bool)) : (s.setFb fb).pc = s.pc := rfl
@[simp] theorem State.setFb_sp (s : State) (fb : List (List Bool)) : (s.setFb fb).sp = s.sp := rfl
@[simp] theorem State.setFb_stack (s : State) (fb : List (List Bool)) : (s.setFb fb).stack = s.stack := rfl
@[simp] theorem State.setFb_dt (s : State) (fb : List (List Bool)) : (s.setFb fb).dt = s.dt := rfl
@[simp] theorem State.setFb_st (s : State) (fb : List (List Bool)) : (s.setFb fb).st = s.st := rfl
@[simp] theorem State.setFb_fb (s : State) (fb : List (List Bool)) : (s.setFb fb).fb = fb := rfl
@[simp] theorem State.setFb_key (s : State) (fb : List (List Bool)) : (s.setFb fb).key = s.key := rfl
@[simp] theorem State.setFb_waitArmed (s : State) (fb : List (List Bool)) : (s.setFb fb).waitArmed = s.waitArmed := rfl
@[simp] theorem State.setFb_keyEvents (s : State) (fb : List (List Bool)) : (s.setFb fb).keyEvents = s.keyEvents := rfl
@[simp] theorem State.setFb_bp (s : State) (fb : List (List Bool)) : (s.setFb fb).bp = s.bp := rfl
@[simp] theorem State.setFb_mode (s : State) (fb : List (List Bool)) : (s.setFb fb).mode = s.mode := rfl
@[simp] theorem State.setFb_fault (s : State) (fb : List (List Bool)) : (s.setFb fb).fault = s.fault := rfl
@[simp] theorem State.setFb_mem (s : State) (fb : List (List Bool)) : (s.setFb fb).mem = s.mem := rfl
@[simp] theorem State.setFb_params (s : State) (fb : List (List Bool)) : (s.setFb fb).params = s.params := rfl
@[simp] theorem State.setFb_rngDraws (s : State) (fb : List (List Bool)) : (s.setFb fb).rngDraws = s.rngDraws := rfl
@[simp] theorem State.setFb_reg (s : State) (fb : List (List Bool)) (q : RegName) : (s.setFb fb).reg q = s.reg q := rfl
@[simp] theorem State.setFb_byteAt (s : State) (fb : List (List Bool)) (n : Nat) : (s.setFb fb).byteAt n = s.byteAt n := rfl

/-! ### `setWait` -/

@[simp] theorem State.setWait_v (s : State) (b : Bool) : (s.setWait b).v = s.v := rfl
@[simp] theorem State.setWait_i (s : State) (b : Bool) : (s.setWait b).i = s.i := rfl
@[simp] theorem State.setWait_pc (s : State) (b : Bool) : (s.setWait b).pc = s.pc := rfl
@[simp] theorem State.setWait_sp (s : State) (b : Bool) : (s.setWait b).sp = s.sp := rfl
@[simp] theorem State.setWait_stack (s : State) (b : Bool) : (s.setWait b).stack = s.stack := rfl
@[simp] theorem State.setWait_dt (s : State) (b : Bool) : (s.setWait b).dt = s.dt := rfl
@[simp] theorem State.setWait_st (s : State) (b : Bool) : (s.setWait b).st = s.st := rfl
@[simp] theorem State.setWait_fb (s : State) (b : Bool) : (s.setWait b).fb = s.fb := rfl
@[simp] theorem State.setWait_key (s : State) (b : Bool) : (s.setWait b).key = s.key := rfl
@[simp] theorem State.setWait_waitArmed (s : State) (b : Bool) : (s.setWait b).waitArmed = b := rfl
@[simp] theorem State.setWait_keyEvents (s : State) (b : Bool) : (s.setWait b).keyEvents = noEvents := rfl
@[simp] theorem State.setWait_bp (s : State) (b : Bool) : (s.setWait b).bp = s.bp := rfl
@[simp] theorem State.setWait_mode (s : State) (b : Bool) : (s.setWait b).mode = s.mode := rfl
@[simp] theorem State.setWait_fault (s : State) (b : Bool) : (s.setWait b).fault = s.fault := rfl
@[simp] theorem State.setWait_mem (s : State) (b : Bool) : (s.setWait b).mem = s.mem := rfl
@[simp] theorem State.setWait_params (s : State) (b : Bool) : (s.setWait b).params = s.params := rfl
@[simp] theorem State.setWait_rngDraws (s : State) (b : Bool) : (s.setWait b).rngDraws = s.rngDraws := rfl
@[simp] theorem State.setWait_reg (s : State) (b : Bool) (q : RegName) : (s.setWait b).reg q = s.reg q := rfl
@[simp] theorem State.setWait_byteAt (s : State) (b : Bool) (n : Nat) : (s.setWait b).byteAt n = s.byteAt n := rfl

/-! ### `afterDraw` -/

@[simp] theorem State.afterDraw_v (s : State) : (s.afterDraw).v = s.v := rfl
@[simp] theorem State.afterDraw_i (s : State) : (s.afterDraw).i = s.i := rfl
@[simp] theorem State.afterDraw_pc (s : State) : (s.afterDraw).pc = s.pc := rfl
@[simp] theorem State.afterDraw_sp (s : State) : (s.afterDraw).sp = s.sp := rfl
@[simp] theorem State.afterDraw_stack (s : State) : (s.afterDraw).stack = s.stack := rfl
@[simp] theorem State.afterDraw_dt (s : State) : (s.afterDraw).dt = s.dt := rfl
@[simp] theorem State.afterDraw_st (s : State) : (s.afterDraw).st = s.st := rfl
@[simp] theorem State.afterDraw_fb (s : State) : (s.afterDraw).fb = s.fb := rfl
@[simp] theorem State.afterDraw_key (s : State) : (s.afterDraw).key = s.key := rfl
@[simp] theorem State.afterDraw_waitArmed (s : State) : (s.afterDraw).waitArmed = s.waitArmed := rfl
@[simp] theorem State.afterDraw_keyEvents (s : State) : (s.afterDraw).keyEvents = s.keyEvents := rfl
@[simp] theorem State.afterDraw_bp (s : State) : (s.afterDraw).bp = s.bp := rfl
@[simp] theorem State.afterDraw_mode (s : State) : (s.afterDraw).mode = s.mode := rfl
@[simp] theorem State.afterDraw_fault (s : State) : (s.afterDraw).fault = s.fault := rfl
@[simp] theorem State.afterDraw_mem (s : State) : (s.afterDraw).mem = s.mem := rfl
@[simp] theorem State.afterDraw_params (s : State) : (s.afterDraw).params = s.params := rfl
@[simp] theorem State.afterDraw_rngDraws (s : State) : (s.afterDraw).rngDraws = s.rngDraws + 1 := rfl
@[simp] theorem State.afterDraw_reg (s : State) (q : RegName) : (s.afterDraw).reg q = s.reg q := rfl
@[simp] theorem State.afterDraw_byteAt (s : State) (n : Nat) : (s.afterDraw).byteAt n = s.byteAt n := rfl

/-! ### `latch` -/

@[simp] theorem State.latch_v (s : State) (k : FaultKind) (a w : Word) : (s.latch k a w).v = s.v := rfl
@[simp] theorem State.latch_i (s : State) (k : FaultKind) (a w : Word) : (s.latch k a w).i = s.i := rfl
@[simp] theorem State.latch_pc (s : State) (k : FaultKind) (a w : Word) : (s.latch k a w).pc = s.pc := rfl
@[simp] theorem State.latch_sp (s : State) (k : FaultKind) (a w : Word) : (s.latch k a w).sp = s.sp := rfl
@[simp] theorem State.latch_stack (s : State) (k : FaultKind) (a w : Word) : (s.latch k a w).stack = s.stack := rfl
@[simp] theorem State.latch_dt (s : State) (k : FaultKind) (a w : Word) : (s.latch k a w).dt = s.dt := rfl
@[simp] theorem State.latch_st (s : State) (k : FaultKind) (a w : Word) : (s.latch k a w).st = s.st := rfl
@[simp] theorem State.latch_fb (s : State) (k : FaultKind) (a w : Word) : (s.latch k a w).fb = s.fb := rfl
@[simp] theorem State.latch_key (s : State) (k : FaultKind) (a w : Word) : (s.latch k a w).key = s.key := rfl
@[simp] theorem State.latch_waitArmed (s : State) (k : FaultKind) (a w : Word) : (s.latch k a w).waitArmed = s.waitArmed := rfl
@[simp] theorem State.latch_keyEvents (s : State) (k : FaultKind) (a w : Word) : (s.latch k a w).keyEvents = s.keyEvents := rfl
@[simp] theorem State.latch_bp (s : State) (k : FaultKind) (a w : Word) : (s.latch k a w).bp = s.bp := rfl
@[simp] theorem State.latch_mode (s : State) (k : FaultKind) (a w : Word) : (s.latch k a w).mode = s.mode := rfl
@[simp] theorem State.latch_fault (s : State) (k : FaultKind) (a w : Word) : (s.latch k a w).fault = { valid := true, kind := k, pc := a, word := w } := rfl
@[simp] theorem State.latch_mem (s : State) (k : FaultKind) (a w : Word) : (s.latch k a w).mem = s.mem := rfl
@[simp] theorem State.latch_params (s : State) (k : FaultKind) (a w : Word) : (s.latch k a w).params = s.params := rfl
@[simp] theorem State.latch_rngDraws (s : State) (k : FaultKind) (a w : Word) : (s.latch k a w).rngDraws = s.rngDraws := rfl
@[simp] theorem State.latch_reg (s : State) (k : FaultKind) (a w : Word) (q : RegName) : (s.latch k a w).reg q = s.reg q := rfl
@[simp] theorem State.latch_byteAt (s : State) (k : FaultKind) (a w : Word) (n : Nat) : (s.latch k a w).byteAt n = s.byteAt n := rfl

/-! ### `raise` -/

@[simp] theorem State.raise_v (s : State) (k : FaultKind) (j : Instr) : (s.raise k j).v = s.v := rfl
@[simp] theorem State.raise_i (s : State) (k : FaultKind) (j : Instr) : (s.raise k j).i = s.i := rfl
@[simp] theorem State.raise_pc (s : State) (k : FaultKind) (j : Instr) : (s.raise k j).pc = s.pc := rfl
@[simp] theorem State.raise_sp (s : State) (k : FaultKind) (j : Instr) : (s.raise k j).sp = s.sp := rfl
@[simp] theorem State.raise_stack (s : State) (k : FaultKind) (j : Instr) : (s.raise k j).stack = s.stack := rfl
@[simp] theorem State.raise_dt (s : State) (k : FaultKind) (j : Instr) : (s.raise k j).dt = s.dt := rfl
@[simp] theorem State.raise_st (s : State) (k : FaultKind) (j : Instr) : (s.raise k j).st = s.st := rfl
@[simp] theorem State.raise_fb (s : State) (k : FaultKind) (j : Instr) : (s.raise k j).fb = s.fb := rfl
@[simp] theorem State.raise_key (s : State) (k : FaultKind) (j : Instr) : (s.raise k j).key = s.key := rfl
@[simp] theorem State.raise_waitArmed (s : State) (k : FaultKind) (j : Instr) : (s.raise k j).waitArmed = s.waitArmed := rfl
@[simp] theorem State.raise_keyEvents (s : State) (k : FaultKind) (j : Instr) : (s.raise k j).keyEvents = s.keyEvents := rfl
@[simp] theorem State.raise_bp (s : State) (k : FaultKind) (j : Instr) : (s.raise k j).bp = s.bp := rfl
@[simp] theorem State.raise_mode (s : State) (k : FaultKind) (j : Instr) : (s.raise k j).mode = s.mode := rfl
@[simp] theorem State.raise_fault (s : State) (k : FaultKind) (j : Instr) : (s.raise k j).fault = { valid := true, kind := k, pc := s.pc - 2, word := encode j } := rfl
@[simp] theorem State.raise_mem (s : State) (k : FaultKind) (j : Instr) : (s.raise k j).mem = s.mem := rfl
@[simp] theorem State.raise_params (s : State) (k : FaultKind) (j : Instr) : (s.raise k j).params = s.params := rfl
@[simp] theorem State.raise_rngDraws (s : State) (k : FaultKind) (j : Instr) : (s.raise k j).rngDraws = s.rngDraws := rfl
@[simp] theorem State.raise_reg (s : State) (k : FaultKind) (j : Instr) (q : RegName) : (s.raise k j).reg q = s.reg q := rfl
@[simp] theorem State.raise_byteAt (s : State) (k : FaultKind) (j : Instr) (n : Nat) : (s.raise k j).byteAt n = s.byteAt n := rfl

/-! ### `setResultFlag` -/

@[simp] theorem State.setResultFlag_v (s : State) (r : RegName) (b c : Byte) : (s.setResultFlag r b c).v = (s.v.set r.val b).set 15 c := rfl
@[simp] theorem State.setResultFlag_i (s : State) (r : RegName) (b c : Byte) : (s.setResultFlag r b c).i = s.i := rfl
@[simp] theorem State.setResultFlag_pc (s : State) (r : RegName) (b c : Byte) : (s.setResultFlag r b c).pc = s.pc := rfl
@[simp] theorem State.setResultFlag_sp (s : State) (r : RegName) (b c : Byte) : (s.setResultFlag r b c).sp = s.sp := rfl
@[simp] theorem State.setResultFlag_stack (s : State) (r : RegName) (b c : Byte) : (s.setResultFlag r b c).stack = s.stack := rfl
@[simp] theorem State.setResultFlag_dt (s : State) (r : RegName) (b c : Byte) : (s.setResultFlag r b c).dt = s.dt := rfl
@[simp] theorem State.setResultFlag_st (s : State) (r : RegName) (b c : Byte) : (s.setResultFlag r b c).st = s.st := rfl
@[simp] theorem State.setResultFlag_fb (s : State) (r : RegName) (b c : Byte) : (s.setResultFlag r b c).fb = s.fb := rfl
@[simp] theorem State.setResultFlag_key (s : State) (r : RegName) (b c : Byte) : (s.setResultFlag r b c).key = s.key := rfl
@[simp] theorem State.setResultFlag_waitArmed (s : State) (r : RegName) (b c : Byte) : (s.setResultFlag r b c).waitArmed = s.waitArmed := rfl
@[simp] theorem State.setResultFlag_keyEvents (s : State) (r : RegName) (b c : Byte) : (s.setResultFlag r b c).keyEvents = s.keyEvents := rfl
@[simp] theorem State.setResultFlag_bp (s : State) (r : RegName) (b c : Byte) : (s.setResultFlag r b c).bp = s.bp := rfl
@[simp] theorem State.setResultFlag_mode (s : State) (r : RegName) (b c : Byte) : (s.setResultFlag r b c).mode = s.mode := rfl
@[simp] theorem State.setResultFlag_fault (s : State) (r : RegName) (b c : Byte) : (s.setResultFlag r b c).fault = s.fault := rfl
@[simp] theorem State.setResultFlag_mem (s : State) (r : RegName) (b c : Byte) : (s.setResultFlag r b c).mem = s.mem := rfl
@[simp] theorem State.setResultFlag_params (s : State) (r : RegName) (b c : Byte) : (s.setResultFlag r b c).params = s.params := rfl
@[simp] theorem State.setResultFlag_rngDraws (s : State) (r : RegName) (b c : Byte) : (s.setResultFlag r b c).rngDraws = s.rngDraws := rfl
@[simp] theorem State.setResultFlag_byteAt (s : State) (r : RegName) (b c : Byte) (n : Nat) : (s.setResultFlag r b c).byteAt n = s.byteAt n := rfl

/-! ### `tick` -/

@[simp] theorem State.tick_v (s : State) : (s.tick).v = s.v := rfl
@[simp] theorem State.tick_i (s : State) : (s.tick).i = s.i := rfl
@[simp] theorem State.tick_pc (s : State) : (s.tick).pc = s.pc := rfl
@[simp] theorem State.tick_sp (s : State) : (s.tick).sp = s.sp := rfl
@[simp] theorem State.tick_stack (s : State) : (s.tick).stack = s.stack := rfl
@[simp] theorem State.tick_dt (s : State) : (s.tick).dt = decrement s.dt := rfl
@[simp] theorem State.tick_st (s : State) : (s.tick).st = decrement s.st := rfl
@[simp] theorem State.tick_fb (s : State) : (s.tick).fb = s.fb := rfl
@[simp] theorem State.tick_key (s : State) : (s.tick).key = s.key := rfl
@[simp] theorem State.tick_waitArmed (s : State) : (s.tick).waitArmed = s.waitArmed := rfl
@[simp] theorem State.tick_keyEvents (s : State) : (s.tick).keyEvents = s.keyEvents := rfl
@[simp] theorem State.tick_bp (s : State) : (s.tick).bp = s.bp := rfl
@[simp] theorem State.tick_mode (s : State) : (s.tick).mode = s.mode := rfl
@[simp] theorem State.tick_fault (s : State) : (s.tick).fault = s.fault := rfl
@[simp] theorem State.tick_mem (s : State) : (s.tick).mem = s.mem := rfl
@[simp] theorem State.tick_params (s : State) : (s.tick).params = s.params := rfl
@[simp] theorem State.tick_rngDraws (s : State) : (s.tick).rngDraws = s.rngDraws := rfl
@[simp] theorem State.tick_reg (s : State) (q : RegName) : (s.tick).reg q = s.reg q := rfl
@[simp] theorem State.tick_byteAt (s : State) (n : Nat) : (s.tick).byteAt n = s.byteAt n := rfl

/-! ### `setKeyBit` -/

@[simp] theorem State.setKeyBit_v (s : State) (k : KeyName) (b : Bool) : (s.setKeyBit k b).v = s.v := rfl
@[simp] theorem State.setKeyBit_i (s : State) (k : KeyName) (b : Bool) : (s.setKeyBit k b).i = s.i := rfl
@[simp] theorem State.setKeyBit_pc (s : State) (k : KeyName) (b : Bool) : (s.setKeyBit k b).pc = s.pc := rfl
@[simp] theorem State.setKeyBit_sp (s : State) (k : KeyName) (b : Bool) : (s.setKeyBit k b).sp = s.sp := rfl
@[simp] theorem State.setKeyBit_stack (s : State) (k : KeyName) (b : Bool) : (s.setKeyBit k b).stack = s.stack := rfl
@[simp] theorem State.setKeyBit_dt (s : State) (k : KeyName) (b : Bool) : (s.setKeyBit k b).dt = s.dt := rfl
@[simp] theorem State.setKeyBit_st (s : State) (k : KeyName) (b : Bool) : (s.setKeyBit k b).st = s.st := rfl
@[simp] theorem State.setKeyBit_fb (s : State) (k : KeyName) (b : Bool) : (s.setKeyBit k b).fb = s.fb := rfl
@[simp] theorem State.setKeyBit_key (s : State) (k : KeyName) (b : Bool) : (s.setKeyBit k b).key = s.key.set k.val b := rfl
@[simp] theorem State.setKeyBit_waitArmed (s : State) (k : KeyName) (b : Bool) : (s.setKeyBit k b).waitArmed = s.waitArmed := rfl
@[simp] theorem State.setKeyBit_bp (s : State) (k : KeyName) (b : Bool) : (s.setKeyBit k b).bp = s.bp := rfl
@[simp] theorem State.setKeyBit_mode (s : State) (k : KeyName) (b : Bool) : (s.setKeyBit k b).mode = s.mode := rfl
@[simp] theorem State.setKeyBit_fault (s : State) (k : KeyName) (b : Bool) : (s.setKeyBit k b).fault = s.fault := rfl
@[simp] theorem State.setKeyBit_mem (s : State) (k : KeyName) (b : Bool) : (s.setKeyBit k b).mem = s.mem := rfl
@[simp] theorem State.setKeyBit_params (s : State) (k : KeyName) (b : Bool) : (s.setKeyBit k b).params = s.params := rfl
@[simp] theorem State.setKeyBit_rngDraws (s : State) (k : KeyName) (b : Bool) : (s.setKeyBit k b).rngDraws = s.rngDraws := rfl
@[simp] theorem State.setKeyBit_reg (s : State) (k : KeyName) (b : Bool) (q : RegName) : (s.setKeyBit k b).reg q = s.reg q := rfl
@[simp] theorem State.setKeyBit_byteAt (s : State) (k : KeyName) (b : Bool) (n : Nat) : (s.setKeyBit k b).byteAt n = s.byteAt n := rfl

/-! ### `setBp` -/

@[simp] theorem State.setBp_v (s : State) (bp : List Word) : (s.setBp bp).v = s.v := rfl
@[simp] theorem State.setBp_i (s : State) (bp : List Word) : (s.setBp bp).i = s.i := rfl
@[simp] theorem State.setBp_pc (s : State) (bp : List Word) : (s.setBp bp).pc = s.pc := rfl
@[simp] theorem State.setBp_sp (s : State) (bp : List Word) : (s.setBp bp).sp = s.sp := rfl
@[simp] theorem State.setBp_stack (s : State) (bp : List Word) : (s.setBp bp).stack = s.stack := rfl
@[simp] theorem State.setBp_dt (s : State) (bp : List Word) : (s.setBp bp).dt = s.dt := rfl
@[simp] theorem State.setBp_st (s : State) (bp : List Word) : (s.setBp bp).st = s.st := rfl
@[simp] theorem State.setBp_fb (s : State) (bp : List Word) : (s.setBp bp).fb = s.fb := rfl
@[simp] theorem State.setBp_key (s : State) (bp : List Word) : (s.setBp bp).key = s.key := rfl
@[simp] theorem State.setBp_waitArmed (s : State) (bp : List Word) : (s.setBp bp).waitArmed = s.waitArmed := rfl
@[simp] theorem State.setBp_keyEvents (s : State) (bp : List Word) : (s.setBp bp).keyEvents = s.keyEvents := rfl
@[simp] theorem State.setBp_bp (s : State) (bp : List Word) : (s.setBp bp).bp = bp := rfl
@[simp] theorem State.setBp_mode (s : State) (bp : List Word) : (s.setBp bp).mode = s.mode := rfl
@[simp] theorem State.setBp_fault (s : State) (bp : List Word) : (s.setBp bp).fault = s.fault := rfl
@[simp] theorem State.setBp_mem (s : State) (bp : List Word) : (s.setBp bp).mem = s.mem := rfl
@[simp] theorem State.setBp_params (s : State) (bp : List Word) : (s.setBp bp).params = s.params := rfl
@[simp] theorem State.setBp_rngDraws (s : State) (bp : List Word) : (s.setBp bp).rngDraws = s.rngDraws := rfl
@[simp] theorem State.setBp_reg (s : State) (bp : List Word) (q : RegName) : (s.setBp bp).reg q = s.reg q := rfl
@[simp] theorem State.setBp_byteAt (s : State) (bp : List Word) (n : Nat) : (s.setBp bp).byteAt n = s.byteAt n := rfl

/-! ### `setMode` -/

@[simp] theorem State.setMode_v (s : State) (m : RunMode) : (s.setMode m).v = s.v := rfl
@[simp] theorem State.setMode_i (s : State) (m : RunMode) : (s.setMode m).i = s.i := rfl
@[simp] theorem State.setMode_pc (s : State) (m : RunMode) : (s.setMode m).pc = s.pc := rfl
@[simp] theorem State.setMode_sp (s : State) (m : RunMode) : (s.setMode m).sp = s.sp := rfl
@[simp] theorem State.setMode_stack (s : State) (m : RunMode) : (s.setMode m).stack = s.stack := rfl
@[simp] theorem State.setMode_dt (s : State) (m : RunMode) : (s.setMode m).dt = s.dt := rfl
@[simp] theorem State.setMode_st (s : State) (m : RunMode) : (s.setMode m).st = s.st := rfl
@[simp] theorem State.setMode_fb (s : State) (m : RunMode) : (s.setMode m).fb = s.fb := rfl
@[simp] theorem State.setMode_key (s : State) (m : RunMode) : (s.setMode m).key = s.key := rfl
@[simp] theorem State.setMode_waitArmed (s : State) (m : RunMode) : (s.setMode m).waitArmed = s.waitArmed := rfl
@[simp] theorem State.setMode_keyEvents (s : State) (m : RunMode) : (s.setMode m).keyEvents = s.keyEvents := rfl
@[simp] theorem State.setMode_bp (s : State) (m : RunMode) : (s.setMode m).bp = s.bp := rfl
@[simp] theorem State.setMode_mode (s : State) (m : RunMode) : (s.setMode m).mode = m := rfl
@[simp] theorem State.setMode_fault (s : State) (m : RunMode) : (s.setMode m).fault = s.fault := rfl
@[simp] theorem State.setMode_mem (s : State) (m : RunMode) : (s.setMode m).mem = s.mem := rfl
@[simp] theorem State.setMode_params (s : State) (m : RunMode) : (s.setMode m).params = s.params := rfl
@[simp] theorem State.setMode_rngDraws (s : State) (m : RunMode) : (s.setMode m).rngDraws = s.rngDraws := rfl
@[simp] theorem State.setMode_reg (s : State) (m : RunMode) (q : RegName) : (s.setMode m).reg q = s.reg q := rfl
@[simp] theorem State.setMode_byteAt (s : State) (m : RunMode) (n : Nat) : (s.setMode m).byteAt n = s.byteAt n := rfl

/-! ### `resetUnit` -/

@[simp] theorem State.resetUnit_v (s : State) : (s.resetUnit).v = Vector.replicate 16 0 := rfl
@[simp] theorem State.resetUnit_i (s : State) : (s.resetUnit).i = 0 := rfl
@[simp] theorem State.resetUnit_pc (s : State) : (s.resetUnit).pc = BitVec.ofNat 16 s.params.entry := rfl
@[simp] theorem State.resetUnit_sp (s : State) : (s.resetUnit).sp = 0 := rfl
@[simp] theorem State.resetUnit_stack (s : State) : (s.resetUnit).stack = Vector.replicate 16 0 := rfl
@[simp] theorem State.resetUnit_dt (s : State) : (s.resetUnit).dt = 0 := rfl
@[simp] theorem State.resetUnit_st (s : State) : (s.resetUnit).st = 0 := rfl
@[simp] theorem State.resetUnit_fb (s : State) : (s.resetUnit).fb = blankDisplay s.params := rfl
@[simp] theorem State.resetUnit_key (s : State) : (s.resetUnit).key = s.key := rfl
@[simp] theorem State.resetUnit_waitArmed (s : State) : (s.resetUnit).waitArmed = false := rfl
@[simp] theorem State.resetUnit_keyEvents (s : State) : (s.resetUnit).keyEvents = noEvents := rfl
@[simp] theorem State.resetUnit_bp (s : State) : (s.resetUnit).bp = [] := rfl
@[simp] theorem State.resetUnit_mode (s : State) : (s.resetUnit).mode = .halted := rfl
@[simp] theorem State.resetUnit_fault (s : State) : (s.resetUnit).fault = .clear := rfl
@[simp] theorem State.resetUnit_mem (s : State) : (s.resetUnit).mem = s.mem := rfl
@[simp] theorem State.resetUnit_params (s : State) : (s.resetUnit).params = s.params := rfl
@[simp] theorem State.resetUnit_rngDraws (s : State) : (s.resetUnit).rngDraws = s.rngDraws := rfl
@[simp] theorem State.resetUnit_byteAt (s : State) (n : Nat) : (s.resetUnit).byteAt n = s.byteAt n := rfl

/-! ### `skipIf` and `setLogic` -/

@[simp] theorem State.skipIf_v (s : State) (c : Bool) : (s.skipIf c).v = s.v := by cases c <;> rfl
@[simp] theorem State.skipIf_i (s : State) (c : Bool) : (s.skipIf c).i = s.i := by cases c <;> rfl
@[simp] theorem State.skipIf_sp (s : State) (c : Bool) : (s.skipIf c).sp = s.sp := by cases c <;> rfl
@[simp] theorem State.skipIf_stack (s : State) (c : Bool) : (s.skipIf c).stack = s.stack := by cases c <;> rfl
@[simp] theorem State.skipIf_dt (s : State) (c : Bool) : (s.skipIf c).dt = s.dt := by cases c <;> rfl
@[simp] theorem State.skipIf_st (s : State) (c : Bool) : (s.skipIf c).st = s.st := by cases c <;> rfl
@[simp] theorem State.skipIf_fb (s : State) (c : Bool) : (s.skipIf c).fb = s.fb := by cases c <;> rfl
@[simp] theorem State.skipIf_key (s : State) (c : Bool) : (s.skipIf c).key = s.key := by cases c <;> rfl
@[simp] theorem State.skipIf_waitArmed (s : State) (c : Bool) : (s.skipIf c).waitArmed = s.waitArmed := by cases c <;> rfl
@[simp] theorem State.skipIf_keyEvents (s : State) (c : Bool) : (s.skipIf c).keyEvents = s.keyEvents := by cases c <;> rfl
@[simp] theorem State.skipIf_bp (s : State) (c : Bool) : (s.skipIf c).bp = s.bp := by cases c <;> rfl
@[simp] theorem State.skipIf_mode (s : State) (c : Bool) : (s.skipIf c).mode = s.mode := by cases c <;> rfl
@[simp] theorem State.skipIf_fault (s : State) (c : Bool) : (s.skipIf c).fault = s.fault := by cases c <;> rfl
@[simp] theorem State.skipIf_mem (s : State) (c : Bool) : (s.skipIf c).mem = s.mem := by cases c <;> rfl
@[simp] theorem State.skipIf_params (s : State) (c : Bool) : (s.skipIf c).params = s.params := by cases c <;> rfl
@[simp] theorem State.skipIf_rngDraws (s : State) (c : Bool) : (s.skipIf c).rngDraws = s.rngDraws := by cases c <;> rfl
@[simp] theorem State.skipIf_pc (s : State) (c : Bool) : (s.skipIf c).pc = if c then s.pc + 2 else s.pc := by
  cases c <;> rfl
@[simp] theorem State.skipIf_reg (s : State) (c : Bool) (q : RegName) : (s.skipIf c).reg q = s.reg q := by cases c <;> rfl
@[simp] theorem State.skipIf_byteAt (s : State) (c : Bool) (n : Nat) : (s.skipIf c).byteAt n = s.byteAt n := by
  cases c <;> rfl
@[simp] theorem State.setLogic_i (s : State) (r : RegName) (b : Byte) : (s.setLogic r b).i = s.i := by
  unfold State.setLogic; split <;> rfl
@[simp] theorem State.setLogic_pc (s : State) (r : RegName) (b : Byte) : (s.setLogic r b).pc = s.pc := by
  unfold State.setLogic; split <;> rfl
@[simp] theorem State.setLogic_sp (s : State) (r : RegName) (b : Byte) : (s.setLogic r b).sp = s.sp := by
  unfold State.setLogic; split <;> rfl
@[simp] theorem State.setLogic_stack (s : State) (r : RegName) (b : Byte) : (s.setLogic r b).stack = s.stack := by
  unfold State.setLogic; split <;> rfl
@[simp] theorem State.setLogic_dt (s : State) (r : RegName) (b : Byte) : (s.setLogic r b).dt = s.dt := by
  unfold State.setLogic; split <;> rfl
@[simp] theorem State.setLogic_st (s : State) (r : RegName) (b : Byte) : (s.setLogic r b).st = s.st := by
  unfold State.setLogic; split <;> rfl
@[simp] theorem State.setLogic_fb (s : State) (r : RegName) (b : Byte) : (s.setLogic r b).fb = s.fb := by
  unfold State.setLogic; split <;> rfl
@[simp] theorem State.setLogic_key (s : State) (r : RegName) (b : Byte) : (s.setLogic r b).key = s.key := by
  unfold State.setLogic; split <;> rfl
@[simp] theorem State.setLogic_waitArmed (s : State) (r : RegName) (b : Byte) : (s.setLogic r b).waitArmed = s.waitArmed := by
  unfold State.setLogic; split <;> rfl
@[simp] theorem State.setLogic_keyEvents (s : State) (r : RegName) (b : Byte) : (s.setLogic r b).keyEvents = s.keyEvents := by
  unfold State.setLogic; split <;> rfl
@[simp] theorem State.setLogic_bp (s : State) (r : RegName) (b : Byte) : (s.setLogic r b).bp = s.bp := by
  unfold State.setLogic; split <;> rfl
@[simp] theorem State.setLogic_mode (s : State) (r : RegName) (b : Byte) : (s.setLogic r b).mode = s.mode := by
  unfold State.setLogic; split <;> rfl
@[simp] theorem State.setLogic_fault (s : State) (r : RegName) (b : Byte) : (s.setLogic r b).fault = s.fault := by
  unfold State.setLogic; split <;> rfl
@[simp] theorem State.setLogic_mem (s : State) (r : RegName) (b : Byte) : (s.setLogic r b).mem = s.mem := by
  unfold State.setLogic; split <;> rfl
@[simp] theorem State.setLogic_params (s : State) (r : RegName) (b : Byte) : (s.setLogic r b).params = s.params := by
  unfold State.setLogic; split <;> rfl
@[simp] theorem State.setLogic_rngDraws (s : State) (r : RegName) (b : Byte) : (s.setLogic r b).rngDraws = s.rngDraws := by
  unfold State.setLogic; split <;> rfl
@[simp] theorem State.setLogic_byteAt (s : State) (r : RegName) (b : Byte) (n : Nat) :
    (s.setLogic r b).byteAt n = s.byteAt n := by
  unfold State.setLogic; split <;> rfl

/-! ### Register reads after register writes -/

theorem State.reg_setReg (s : State) (r q : RegName) (b : Byte) :
    (s.setReg r b).reg q = if q = r then b else s.reg q := by
  simp only [State.reg, State.setReg, Vector.getElem_set, Fin.ext_iff, eq_comm]

@[simp] theorem State.reg_setReg_self (s : State) (r : RegName) (b : Byte) : (s.setReg r b).reg r = b := by
  simp [State.reg_setReg]

theorem State.reg_setReg_of_ne (s : State) {r q : RegName} (b : Byte) (h : q ≠ r) :
    (s.setReg r b).reg q = s.reg q := by
  simp [State.reg_setReg, h]

theorem State.reg_setResultFlag (s : State) (r q : RegName) (b c : Byte) :
    (s.setResultFlag r b c).reg q = if q = vf then c else if q = r then b else s.reg q := by
  simp only [State.setResultFlag, State.reg_setReg]

theorem State.reg_setLogic (s : State) (r q : RegName) (b : Byte) :
    (s.setLogic r b).reg q =
      if s.params.vfResetOnLogic = true ∧ q = vf then 0 else if q = r then b else s.reg q := by
  unfold State.setLogic
  split <;> simp [State.reg_setResultFlag, State.reg_setReg, *]

theorem State.reg_loadRegsThrough (s : State) (x q : RegName) (a : Nat) :
    (s.loadRegsThrough x a).reg q = if q.val ≤ x.val then s.byteAt (a + q.val) else s.reg q := by
  simp [State.reg, State.loadRegsThrough]

/-- Two states that differ in their registers only are equal when every register reads the same. -/
theorem State.ext_v {s t : State} (h : t = { s with v := t.v }) (hr : ∀ q, t.reg q = s.reg q) : t = s := by
  have hv : t.v = s.v := by
    apply Vector.ext
    intro k hk
    exact hr ⟨k, hk⟩
  rw [h, hv]

/-! ### The call stack -/

theorem State.stackEntry_pushReturn (s : State) (k q : Fin 16) :
    (s.pushReturn k).stackEntry q = if q = k then s.pc else s.stackEntry q := by
  simp only [State.stackEntry, State.pushReturn, Vector.getElem_set, Fin.ext_iff, eq_comm]

/-! ### Keys -/

theorem State.keyDown_setKeyBit (s : State) (k q : KeyName) (b : Bool) :
    (s.setKeyBit k b).keyDown q = if q = k then b else s.keyDown q := by
  simp only [State.keyDown, State.setKeyBit, Vector.getElem_set, Fin.ext_iff, eq_comm]

theorem keyNamed_eq_some {b : Byte} {k : KeyName} : keyNamed b = some k ↔ b.toNat = k.val := by
  unfold keyNamed
  constructor
  · intro h
    split at h
    · simp only [Option.some.injEq] at h
      rw [← h]
    · cases h
  · intro h
    rw [dif_pos (h ▸ k.isLt)]
    exact congrArg some (Fin.ext h)

theorem keyNamed_eq_none {b : Byte} : keyNamed b = none ↔ 0x0F < b.toNat := by
  unfold keyNamed
  split <;> simp <;> omega

/-- What `lowestKey` answers: a set bit below which none is set. -/
theorem lowestKey_eq_some {ks : Vector Bool 16} {k : KeyName} (h : lowestKey ks = some k) :
    ks[k.val] = true ∧ ∀ j : KeyName, j < k → ks[j.val] = false := by
  unfold lowestKey at h
  obtain ⟨hk, as, bs, hl, hn⟩ := List.find?_eq_some_iff_append.1 h
  refine ⟨by simpa using hk, fun j hj => ?_⟩
  have hs : (List.finRange 16).Pairwise (· < ·) := List.pairwise_lt_finRange 16
  have hmem : j ∈ List.finRange 16 := List.mem_finRange j
  rw [hl] at hmem hs
  rcases List.mem_append.1 hmem with hm | hm
  · simpa using hn j hm
  · rcases List.mem_cons.1 hm with rfl | hm
    · exact absurd hj (lt_irrefl _)
    · have := (List.pairwise_cons.1 (List.pairwise_append.1 hs).2.1).1 j hm
      exact absurd hj (not_lt.2 this.le)

theorem lowestKey_eq_none {ks : Vector Bool 16} : lowestKey ks = none ↔ ∀ k : KeyName, ks[k.val] = false := by
  simp [lowestKey]

end Sys2Proof.Machine
end

