-- ==== Sys2Proof/Laws/Memory.lean ====
section
/-! SUPPORT. The laws of memory (spec/20_memory.md R72 to R76, R78): what a read gives after a write, and that
every memory operation keeps the canonical form. -/

namespace Sys2Proof.Machine

theorem Memory.wfFrom_cons {p : Params} {lo b : Nat} {w : Byte} {m : List Host.Cell} :
    Memory.wfFrom p lo ((b, w) :: m) = true ↔
      lo ≤ b ∧ b < p.memSize ∧ w ≠ initialByte p b ∧ Memory.wfFrom p (b + 1) m = true := by
  simp [Memory.wfFrom, and_assoc]

/-- A lower bound may be weakened. -/
theorem Memory.wfFrom_mono {p : Params} {lo lo' : Nat} (h : lo' ≤ lo) :
    ∀ {m : List Host.Cell}, Memory.wfFrom p lo m = true → Memory.wfFrom p lo' m = true
  | [], _ => rfl
  | (_, _) :: _, hm => by
    rw [Memory.wfFrom_cons] at hm ⊢
    exact ⟨h.trans hm.1, hm.2⟩

/-- Below the first address memory can list, it reads as at construction. -/
theorem Memory.get_of_lt {p : Params} {a : Nat} :
    ∀ {m : List Host.Cell} {lo : Nat}, Memory.wfFrom p lo m = true → a < lo → Memory.get p m a = initialByte p a
  | [], _, _, _ => rfl
  | (b, w) :: m, lo, hm, h => by
    rw [Memory.wfFrom_cons] at hm
    have hb : b ≠ a := by omega
    rw [Memory.get, if_neg hb]
    exact Memory.get_of_lt hm.2.2.2 (by omega)

/-- Storing a byte inside memory keeps the canonical form. -/
theorem Memory.wfFrom_put {p : Params} {a : Nat} {v : Byte} (ha : a < p.memSize) :
    ∀ {m : List Host.Cell} {lo : Nat}, Memory.wfFrom p lo m = true → lo ≤ a →
      Memory.wfFrom p lo (Memory.put p m a v) = true
  | [], lo, _, hlo => by
    unfold Memory.put
    split
    · rfl
    · rw [Memory.wfFrom_cons]
      exact ⟨hlo, ha, by assumption, rfl⟩
  | (b, w) :: m, lo, hm, hlo => by
    have hm' := Memory.wfFrom_cons.1 hm
    unfold Memory.put
    by_cases hab : a < b
    · rw [if_pos hab]
      split
      · exact hm
      · rw [Memory.wfFrom_cons]
        refine ⟨hlo, ha, by assumption, Memory.wfFrom_cons.2 ⟨by omega, hm'.2⟩⟩
    · rw [if_neg hab]
      by_cases heq : a = b
      · subst heq
        rw [if_pos rfl]
        split
        · exact Memory.wfFrom_mono (by omega) hm'.2.2.2
        · rw [Memory.wfFrom_cons]
          exact ⟨hlo, ha, by assumption, hm'.2.2.2⟩
      · rw [if_neg heq, Memory.wfFrom_cons]
        exact ⟨hm'.1, hm'.2.1, hm'.2.2.1, Memory.wfFrom_put ha hm'.2.2.2 (by omega)⟩

/-- Reading after one write, from memory in canonical form (R72, R73, R78). -/
theorem Memory.get_put_from {p : Params} {a c : Nat} {v : Byte} :
    ∀ {m : List Host.Cell} {lo : Nat}, Memory.wfFrom p lo m = true →
      Memory.get p (Memory.put p m a v) c = if c = a then v else Memory.get p m c
  | [], _, _ => by
    unfold Memory.put
    split
    · next h =>
      split
      · next hc => rw [hc, Memory.get, h]
      · rfl
    · simp only [Memory.get, eq_comm]
  | (b, w) :: m, lo, hm => by
    have hm' := Memory.wfFrom_cons.1 hm
    unfold Memory.put
    by_cases hab : a < b
    · rw [if_pos hab]
      split
      · next hv =>
        split
        · next hc =>
          subst hc
          rw [hv]
          exact Memory.get_of_lt (lo := b) (Memory.wfFrom_cons.2 ⟨le_rfl, hm'.2⟩) hab
        · rfl
      · rw [Memory.get]
        simp only [eq_comm]
    · rw [if_neg hab]
      by_cases heq : a = b
      · subst heq
        rw [if_pos rfl]
        split
        · next hv =>
          by_cases hc : c = a
          · subst hc
            rw [if_pos rfl, hv]
            exact Memory.get_of_lt hm'.2.2.2 (by omega)
          · rw [if_neg hc, Memory.get, if_neg (Ne.symm hc)]
        · simp only [Memory.get]
          by_cases hc : c = a
          · simp [hc]
          · simp [hc, Ne.symm hc]
      · rw [if_neg heq, Memory.get, Memory.get, Memory.get_put_from hm'.2.2.2]
        by_cases hc : c = a
        · subst hc
          simp [Ne.symm heq]
        · simp [hc]

theorem Memory.wf_put {p : Params} {m : List Host.Cell} {a : Nat} {v : Byte} (ha : a < p.memSize)
    (hm : Memory.wf p m = true) : Memory.wf p (Memory.put p m a v) = true :=
  Memory.wfFrom_put ha hm (Nat.zero_le a)

theorem Memory.get_put {p : Params} {m : List Host.Cell} (hm : Memory.wf p m = true) (a c : Nat) (v : Byte) :
    Memory.get p (Memory.put p m a v) c = if c = a then v else Memory.get p m c :=
  Memory.get_put_from hm

theorem Memory.wf_putAll {p : Params} :
    ∀ {bs : List Byte} {m : List Host.Cell} {a : Nat}, a + bs.length ≤ p.memSize → Memory.wf p m = true →
      Memory.wf p (Memory.putAll p m a bs) = true
  | [], _, _, _, hm => hm
  | b :: bs, m, a, h, hm => by
    rw [List.length_cons] at h
    rw [Memory.putAll]
    exact Memory.wf_putAll (by omega) (Memory.wf_put (by omega) hm)

/-- Reading after a block of bytes was written at ascending addresses (R76). -/
theorem Memory.get_putAll {p : Params} :
    ∀ {bs : List Byte} {m : List Host.Cell} {a : Nat}, a + bs.length ≤ p.memSize → Memory.wf p m = true →
      ∀ c, Memory.get p (Memory.putAll p m a bs) c =
        if a ≤ c ∧ c < a + bs.length then bs.getD (c - a) 0 else Memory.get p m c
  | [], _, a, _, _, c => by
    rw [if_neg (by simp only [List.length_nil]; omega)]
    rfl
  | b :: bs, m, a, h, hm, c => by
    rw [List.length_cons] at h ⊢
    rw [Memory.putAll, Memory.get_putAll (by omega) (Memory.wf_put (by omega) hm), Memory.get_put hm]
    by_cases h1 : c = a
    · subst h1
      rw [if_neg (by omega), if_pos rfl, if_pos (by omega), Nat.sub_self]
      rfl
    · by_cases h2 : a + 1 ≤ c ∧ c < a + 1 + bs.length
      · rw [if_pos h2, if_pos (by omega), show c - a = (c - (a + 1)) + 1 by omega, List.getD_cons_succ]
      · rw [if_neg h2, if_neg h1, if_neg (by omega)]

/-! ### The same at the state -/

theorem State.byteAt_writeBlock {s : State} (hm : Memory.wf s.params s.mem = true) {a : Nat} {bs : List Byte}
    (h : a + bs.length ≤ s.params.memSize) (c : Nat) :
    (s.writeBlock a bs).byteAt c = if a ≤ c ∧ c < a + bs.length then bs.getD (c - a) 0 else s.byteAt c :=
  Memory.get_putAll h hm c

theorem State.mem_wf_writeBlock {s : State} (hm : Memory.wf s.params s.mem = true) {a : Nat} {bs : List Byte}
    (h : a + bs.length ≤ s.params.memSize) :
    Memory.wf (s.writeBlock a bs).params (s.writeBlock a bs).mem = true :=
  Memory.wf_putAll h hm

/-- Memory right after construction lists nothing and is in canonical form (R380). -/
theorem State.construct_mem_wf (p : Params) : Memory.wf (State.construct p).params (State.construct p).mem = true := rfl

/-- Two memories in canonical form that read the same are the same data. -/
theorem Memory.eq_of_get_from {p : Params} :
    ∀ {m m' : List Host.Cell} {lo : Nat}, Memory.wfFrom p lo m = true → Memory.wfFrom p lo m' = true →
      (∀ a, Memory.get p m a = Memory.get p m' a) → m = m'
  | [], [], _, _, _, _ => rfl
  | [], (b, w) :: m', _, _, hm', h => by
    have h1 := Memory.wfFrom_cons.1 hm'
    have h2 := h b
    rw [Memory.get, Memory.get, if_pos rfl] at h2
    exact absurd h2.symm h1.2.2.1
  | (b, w) :: m, [], _, hm, _, h => by
    have h1 := Memory.wfFrom_cons.1 hm
    have h2 := h b
    rw [Memory.get, Memory.get, if_pos rfl] at h2
    exact absurd h2 h1.2.2.1
  | (b, w) :: m, (b', w') :: m', lo, hm, hm', h => by
    have h1 := Memory.wfFrom_cons.1 hm
    have h2 := Memory.wfFrom_cons.1 hm'
    have hbb : b = b' := by
      rcases Nat.lt_trichotomy b b' with hlt | heq | hlt
      · have h3 := h b
        rw [Memory.get, if_pos rfl, Memory.get_of_lt (lo := b') (Memory.wfFrom_cons.2 ⟨le_rfl, h2.2⟩) hlt] at h3
        exact absurd h3 h1.2.2.1
      · exact heq
      · have h3 := h b'
        rw [Memory.get_of_lt (lo := b) (Memory.wfFrom_cons.2 ⟨le_rfl, h1.2⟩) hlt, Memory.get, if_pos rfl] at h3
        exact absurd h3.symm h2.2.2.1
    subst hbb
    have hw : w = w' := by
      have h3 := h b
      rwa [Memory.get, Memory.get, if_pos rfl, if_pos rfl] at h3
    subst hw
    have hmm : m = m' := Memory.eq_of_get_from h1.2.2.2 h2.2.2.2 (fun a => by
      by_cases hab : a < b + 1
      · rw [Memory.get_of_lt h1.2.2.2 hab, Memory.get_of_lt h2.2.2.2 hab]
      · have h3 := h a
        rwa [Memory.get, Memory.get, if_neg (by omega), if_neg (by omega)] at h3)
    rw [hmm]

/-! ### Range checks (R74) -/

theorem State.inRange_iff {s : State} {a n : Nat} : s.inRange a n = true ↔ n = 0 ∨ a + n ≤ s.params.memSize := by
  simp [State.inRange]

theorem State.readBlock_length (s : State) (a n : Nat) : (s.readBlock a n).length = n := by simp [State.readBlock]

theorem State.readBlock_getD (s : State) (a : Nat) {n k : Nat} (h : k < n) :
    (s.readBlock a n).getD k 0 = s.byteAt (a + k) := by
  simp [State.readBlock, List.getD_eq_getElem?_getD, h]

theorem State.regsThrough_length (s : State) (x : RegName) : (s.regsThrough x).length = x.val + 1 := by
  simp [State.regsThrough]

theorem State.regsThrough_getD (s : State) {x k : RegName} (h : k.val ≤ x.val) :
    (s.regsThrough x).getD k.val 0 = s.reg k := by
  simp [State.regsThrough, State.reg, List.getD_eq_getElem?_getD, Nat.lt_succ_of_le h]

end Sys2Proof.Machine
end

