-- ==== Sys2Proof/Laws/Display.lean ====
section
/-! SUPPORT. The laws of the display surface (spec/44_display.md R221, R222): flipping a place, drawing a
sequence of places, and which places a sprite covers. -/

namespace Sys2Proof.Machine

/-- A place of a display of the given shape. -/
def inGrid (p : Params) (px py : Nat) : Prop := px < p.dispW ∧ py < p.dispH

theorem displayShaped_blank (p : Params) : displayShaped p (blankDisplay p) := by
  constructor
  · simp [blankDisplay]
  · intro row h
    rw [List.eq_of_mem_replicate h, List.length_replicate]

theorem pixelAt_blank (p : Params) (px py : Nat) : pixelAt (blankDisplay p) px py = false := by
  unfold pixelAt blankDisplay
  rw [List.getD_eq_getElem?_getD, List.getD_eq_getElem?_getD, List.getElem?_replicate]
  split
  · rw [Option.getD_some, List.getElem?_replicate]
    split <;> rfl
  · rfl

/-- Flipping a place keeps the display's shape. -/
theorem displayShaped_flip {p : Params} {fb : List (List Bool)} (h : displayShaped p fb) (px py : Nat) :
    displayShaped p (flipPixel fb px py) := by
  obtain ⟨h1, h2⟩ := h
  constructor
  · simp [flipPixel, h1]
  · intro row hrow
    obtain ⟨k, hk, rfl⟩ := List.getElem_of_mem hrow
    simp only [flipPixel, List.length_modify] at hk
    simp only [flipPixel, List.getElem_modify]
    split
    · simp [h2 _ (List.getElem_mem hk)]
    · exact h2 _ (List.getElem_mem hk)

/-- Reading a place after flipping one that lies on the display. -/
theorem pixelAt_flip {p : Params} {fb : List (List Bool)} (h : displayShaped p fb) {px py : Nat}
    (hin : inGrid p px py) (qx qy : Nat) :
    pixelAt (flipPixel fb px py) qx qy =
      if qx = px ∧ qy = py then !pixelAt fb px py else pixelAt fb qx qy := by
  obtain ⟨h1, h2⟩ := h
  have hy : py < fb.length := h1 ▸ hin.2
  have hx : px < fb[py].length := by rw [h2 _ (List.getElem_mem hy)]; exact hin.1
  unfold pixelAt flipPixel
  simp only [List.getD_eq_getElem?_getD, List.getElem?_modify]
  by_cases hqy : qy = py
  · subst hqy
    simp only [hy, List.getElem?_eq_getElem, if_true, Option.getD_some, and_true]
    by_cases hqx : qx = px
    · subst hqx
      simp [hx]
    · simp [hqx, Ne.symm hqx]
  · simp [hqy, Ne.symm hqy]

theorem drawCell_fst (acc : List (List Bool) × Bool) (c : Nat × Nat) :
    (drawCell acc c).1 = flipPixel acc.1 c.1 c.2 := rfl

/-- Drawing places that lie on the display, no two of them the same: the shape stays, each place given is
flipped and every other place is as before, and `collide` says whether a place given was set before. -/
theorem foldl_drawCell {p : Params} :
    ∀ {cells : List (Nat × Nat)} {fb : List (List Bool)} {b : Bool}, displayShaped p fb →
      (∀ c ∈ cells, inGrid p c.1 c.2) → cells.Nodup →
      displayShaped p (cells.foldl drawCell (fb, b)).1 ∧
      (∀ qx qy, pixelAt (cells.foldl drawCell (fb, b)).1 qx qy =
        (pixelAt fb qx qy ^^ decide ((qx, qy) ∈ cells))) ∧
      (cells.foldl drawCell (fb, b)).2 = (b || cells.any (fun c => pixelAt fb c.1 c.2))
  | [], fb, b, hfb, _, _ => by simp [hfb]
  | c :: cells, fb, b, hfb, hin, hnd => by
    have hc : inGrid p c.1 c.2 := hin c (List.mem_cons_self)
    have hnd' := List.nodup_cons.1 hnd
    have ih := foldl_drawCell (cells := cells) (fb := flipPixel fb c.1 c.2) (b := b || pixelAt fb c.1 c.2)
      (displayShaped_flip hfb _ _) (fun d hd => hin d (List.mem_cons_of_mem _ hd)) hnd'.2
    rw [List.foldl_cons]
    refine ⟨ih.1, fun qx qy => ?_, ?_⟩
    · have := ih.2.1 qx qy
      rw [show drawCell (fb, b) c = (flipPixel fb c.1 c.2, b || pixelAt fb c.1 c.2) from rfl, this,
        pixelAt_flip hfb hc]
      by_cases hq : (qx, qy) = c
      · subst hq
        simp [hnd'.1]
      · have hne : ¬ (qx = c.1 ∧ qy = c.2) := fun h => hq (Prod.ext h.1 h.2)
        simp [hne, hq]
    · rw [show drawCell (fb, b) c = (flipPixel fb c.1 c.2, b || pixelAt fb c.1 c.2) from rfl, ih.2.2,
        List.any_cons, Bool.or_assoc]
      congr 2
      rw [Bool.eq_iff_iff]
      simp only [List.any_eq_true]
      refine exists_congr fun d => and_congr_right fun hd => ?_
      rw [pixelAt_flip hfb hc, if_neg]
      rintro ⟨h1, h2⟩
      exact hnd'.1 (by rwa [← Prod.ext h1 h2])

/-- `drawCells` over distinct places of the display. -/
theorem drawCells_spec {p : Params} {cells : List (Nat × Nat)} {fb : List (List Bool)}
    (hfb : displayShaped p fb) (hin : ∀ c ∈ cells, inGrid p c.1 c.2) (hnd : cells.Nodup) :
    displayShaped p (drawCells fb cells).1 ∧
    (∀ qx qy, pixelAt (drawCells fb cells).1 qx qy = (pixelAt fb qx qy ^^ decide ((qx, qy) ∈ cells))) ∧
    (drawCells fb cells).2 = cells.any (fun c => pixelAt fb c.1 c.2) := by
  have h := foldl_drawCell (b := false) hfb hin hnd
  exact ⟨h.1, h.2.1, h.2.2.trans (Bool.false_or _)⟩

/-- Drawing keeps the display's shape whatever the places. -/
theorem displayShaped_drawCells {p : Params} {fb : List (List Bool)} (h : displayShaped p fb)
    (cells : List (Nat × Nat)) : displayShaped p (drawCells fb cells).1 := by
  unfold drawCells
  generalize false = b
  induction cells generalizing fb b with
  | nil => exact h
  | cons c cells ih => exact ih (displayShaped_flip h _ _) _

/-- Two displays of one shape with the same pixels are the same. -/
theorem display_ext {p : Params} {fb gb : List (List Bool)} (hf : displayShaped p fb) (hg : displayShaped p gb)
    (h : ∀ qx qy, pixelAt fb qx qy = pixelAt gb qx qy) : fb = gb := by
  apply List.ext_getElem (hf.1.trans hg.1.symm)
  intro y h1 h2
  apply List.ext_getElem ((hf.2 _ (List.getElem_mem h1)).trans (hg.2 _ (List.getElem_mem h2)).symm)
  intro x h3 h4
  simpa [pixelAt, List.getD_eq_getElem?_getD, h1, h2, h3, h4] using h x y

/-! ### Sprites -/

theorem mem_spriteRowCells {p : Params} {x0 y0 r : Nat} {row : Byte} {px py : Nat} :
    (px, py) ∈ spriteRowCells p x0 y0 r row ↔
      ∃ c < 8, spriteBit row c = true ∧ px = (x0 + c) % p.dispW ∧ py = (y0 + r) % p.dispH := by
  simp only [spriteRowCells, List.mem_map, List.mem_filter, List.mem_range, Prod.mk.injEq]
  constructor
  · rintro ⟨c, ⟨h1, h2⟩, rfl, rfl⟩
    exact ⟨c, h1, h2, rfl, rfl⟩
  · rintro ⟨c, h1, h2, rfl, rfl⟩
    exact ⟨c, ⟨h1, h2⟩, rfl, rfl⟩

theorem mem_spriteCells {p : Params} {x0 y0 : Nat} {px py : Nat} :
    ∀ {rows : List Byte} {r0 : Nat}, (px, py) ∈ spriteCells p x0 y0 r0 rows ↔
      ∃ r < rows.length, ∃ c < 8, spriteBit (rows.getD r 0) c = true ∧
        px = (x0 + c) % p.dispW ∧ py = (y0 + (r0 + r)) % p.dispH
  | [], _ => by simp [spriteCells]
  | row :: rows, r0 => by
    rw [spriteCells, List.mem_append, mem_spriteRowCells, mem_spriteCells]
    constructor
    · rintro (⟨c, h⟩ | ⟨r, hr, c, hc, h⟩)
      · exact ⟨0, by simp, c, by simpa using h⟩
      · refine ⟨r + 1, by simpa using hr, c, hc, ?_⟩
        rw [List.getD_cons_succ, show r0 + (r + 1) = r0 + 1 + r by omega]
        exact h
    · rintro ⟨r, hr, c, hc, h⟩
      cases r with
      | zero => exact .inl ⟨c, hc, by simpa using h⟩
      | succ r =>
        refine .inr ⟨r, by simpa using hr, c, hc, ?_⟩
        rw [List.getD_cons_succ, show r0 + (r + 1) = r0 + 1 + r by omega] at h
        exact h

/-- Wrapping moves distinct offsets below the modulus to distinct places. -/
theorem wrap_injective {m a b c : Nat} (hb : b < m) (hc : c < m) (h : (a + b) % m = (a + c) % m) : b = c := by
  have h' : b % m = c % m := Nat.ModEq.add_left_cancel' a h
  rwa [Nat.mod_eq_of_lt hb, Nat.mod_eq_of_lt hc] at h'

/-- No two bits of a sprite land on the same place, because `8 <= DISP_W` and the sprite is no taller than
the display (R221). -/
theorem spriteCells_nodup {p : Params} (hw : 8 ≤ p.dispW) {x0 y0 : Nat} :
    ∀ {rows : List Byte} {r0 : Nat}, r0 + rows.length ≤ p.dispH → (spriteCells p x0 y0 r0 rows).Nodup
  | [], _, _ => List.nodup_nil
  | row :: rows, r0, h => by
    rw [List.length_cons] at h
    rw [spriteCells, List.nodup_append]
    refine ⟨?_, spriteCells_nodup hw (by omega), ?_⟩
    · refine List.Nodup.map_on ?_ (List.nodup_range.filter _)
      intro b hb c hc hbc
      simp only [List.mem_filter, List.mem_range] at hb hc
      exact wrap_injective (m := p.dispW) (by omega) (by omega) (Prod.mk.inj hbc).1
    · rintro ⟨px, py⟩ h1 ⟨qx, qy⟩ h2 heq
      cases heq
      obtain ⟨_, _, _, _, hy⟩ := mem_spriteRowCells.1 h1
      obtain ⟨r, hr, _, _, _, _, hy'⟩ := mem_spriteCells.1 h2
      have : r0 = r0 + 1 + r := wrap_injective (m := p.dispH) (by omega) (by omega) (hy.symm.trans hy')
      omega

/-- Every place of a sprite lies on the display. -/
theorem spriteCells_inGrid {p : Params} (hw : 0 < p.dispW) (hh : 0 < p.dispH) {x0 y0 r0 : Nat} {rows : List Byte} :
    ∀ c ∈ spriteCells p x0 y0 r0 rows, inGrid p c.1 c.2 := by
  rintro ⟨px, py⟩ h
  obtain ⟨_, _, _, _, _, hx, hy⟩ := mem_spriteCells.1 h
  exact ⟨hx ▸ Nat.mod_lt _ hw, hy ▸ Nat.mod_lt _ hh⟩

/-- The places `DRW` flips are the places its sprite covers. -/
theorem mem_spritePlaces {s : State} {x y : RegName} {n px py : Nat} :
    (px, py) ∈ s.spritePlaces x y n ↔ spriteCovers s x y n px py = true := by
  simp only [State.spritePlaces, mem_spriteCells, State.readBlock_length, spriteCovers, List.any_eq_true,
    List.mem_range, Bool.and_eq_true, decide_eq_true_eq, Nat.zero_add, spriteBit]
  constructor
  · rintro ⟨r, hr, c, hc, h1, h2, h3⟩
    rw [State.readBlock_getD s _ hr] at h1
    exact ⟨r, hr, c, hc, ⟨h1, h2⟩, h3⟩
  · rintro ⟨r, hr, c, hc, ⟨h1, h2⟩, h3⟩
    exact ⟨r, hr, c, hc, by rwa [State.readBlock_getD s _ hr], h2, h3⟩

end Sys2Proof.Machine
end

