-- ==== Sys2Proof/Laws/Exec.lean ====
section
/-! SUPPORT. What a step can do, said once (spec/40_execution_cycle.md R140 to R145), and the equations of a
step in each of its cases. -/

namespace Sys2Proof.Machine

/-- With a fault latched a step changes nothing (R141). -/
theorem step_of_faulted {s : State} (h : s.fault.valid = true) : step s = .next s := by
  simp [step, cycle, h]

/-- A fetch out of bounds (R142). -/
theorem step_of_not_fetchable {s : State} (h : s.fault.valid = false) (hf : s.fetchable = false) :
    step s = .next (s.latch .outOfBounds s.pc 0) := by
  simp [step, cycle, h, hf]

/-- A word that decodes to no instruction (R144). -/
theorem step_of_invalid {s : State} (h : s.fault.valid = false) (hf : s.fetchable = true)
    (hd : decode s.fetchWord = none) : step s = .next (s.advance.latch .invalidOpcode s.pc s.fetchWord) := by
  simp [step, cycle, h, hf, State.decodeExecute, hd]

/-- A word that decodes to an instruction (R145). -/
theorem step_of_decoded {s : State} {i : Instr} (h : s.fault.valid = false) (hf : s.fetchable = true)
    (hd : decode s.fetchWord = some i) : step s = exec i s.advance := by
  simp [step, cycle, h, hf, State.decodeExecute, hd]

/-- Everything a step can do when it answers a next state. -/
theorem step_cases {s t : State} (h : step s = .next t) :
    (s.fault.valid = true ∧ t = s) ∨
    (s.fault.valid = false ∧ s.fetchable = false ∧ t = s.latch .outOfBounds s.pc 0) ∨
    (s.fault.valid = false ∧ s.fetchable = true ∧ decode s.fetchWord = none ∧
      t = s.advance.latch .invalidOpcode s.pc s.fetchWord) ∨
    (s.fault.valid = false ∧ s.fetchable = true ∧ ∃ i, decode s.fetchWord = some i ∧ exec i s.advance = .next t) := by
  by_cases hv : s.fault.valid = true
  · rw [step_of_faulted hv, Host.Outcome.next.injEq] at h
    exact .inl ⟨hv, h.symm⟩
  · replace hv : s.fault.valid = false := by simpa using hv
    by_cases hf : s.fetchable = true
    · cases hd : decode s.fetchWord with
      | none =>
        rw [step_of_invalid hv hf hd, Host.Outcome.next.injEq] at h
        exact .inr (.inr (.inl ⟨hv, hf, rfl, h.symm⟩))
      | some i =>
        rw [step_of_decoded hv hf hd] at h
        exact .inr (.inr (.inr ⟨hv, hf, i, rfl, h⟩))
    · replace hf : s.fetchable = false := by simpa using hf
      rw [step_of_not_fetchable hv hf, Host.Outcome.next.injEq] at h
      exact .inr (.inl ⟨hv, hf, h.symm⟩)

theorem State.fetchable_iff {s : State} : s.fetchable = true ↔ s.pc.toNat + 1 < s.params.memSize := by
  simp [State.fetchable]

/-- After the fetch advance the instruction's own address is `pc - 2` (R143, log entry 3). -/
@[simp] theorem advance_pc_sub_two (pc : Word) : pc + 2 - 2 = pc := by simp

/-! ### The equations of the guarded meanings -/

theorem execCall_push {s : State} (nnn : BitVec 12) (h : s.sp.toNat < 16) :
    execCall nnn s = .next ((s.pushReturn ⟨s.sp.toNat, h⟩).setPc (zext16 nnn)) := by
  unfold execCall
  rw [if_neg (by unfold stackDepth; omega), dif_pos h]

theorem execCall_overflow {s : State} (nnn : BitVec 12) (h : s.sp.toNat = 16) :
    execCall nnn s = .next (s.raise .stackOverflow (.call nnn)) := by
  unfold execCall
  exact if_pos h

theorem execRet_pop {s : State} (h0 : s.sp.toNat ≠ 0) (h : s.sp.toNat - 1 < 16) :
    execRet s = .next (s.popReturn ⟨s.sp.toNat - 1, h⟩) := by
  unfold execRet
  rw [if_neg h0, dif_pos h]

theorem execRet_underflow {s : State} (h : s.sp.toNat = 0) : execRet s = .next (s.raise .stackUnderflow .ret) := by
  unfold execRet
  rw [if_pos h]

/-- What `CALL` can do. -/
theorem execCall_cases {s t : State} {nnn : BitVec 12} (h : execCall nnn s = .next t) :
    (s.sp.toNat = 16 ∧ t = s.raise .stackOverflow (.call nnn)) ∨
    ∃ hk : s.sp.toNat < 16, t = (s.pushReturn ⟨s.sp.toNat, hk⟩).setPc (zext16 nnn) := by
  unfold execCall at h
  split at h
  · next h1 => exact .inl ⟨h1, (Host.Outcome.next.inj h).symm⟩
  · split at h
    · next h2 => exact .inr ⟨h2, (Host.Outcome.next.inj h).symm⟩
    · cases h

/-- What `RET` can do. -/
theorem execRet_cases {s t : State} (h : execRet s = .next t) :
    (s.sp.toNat = 0 ∧ t = s.raise .stackUnderflow .ret) ∨
    (s.sp.toNat ≠ 0 ∧ ∃ hk : s.sp.toNat - 1 < 16, t = s.popReturn ⟨s.sp.toNat - 1, hk⟩) := by
  unfold execRet at h
  split at h
  · next h1 => exact .inl ⟨h1, (Host.Outcome.next.inj h).symm⟩
  · next h1 =>
    split at h
    · next h2 => exact .inr ⟨h1, h2, (Host.Outcome.next.inj h).symm⟩
    · cases h

/-- What an instruction that checks a byte range can do (R74). -/
theorem range_cases {s t u : State} {a n : Nat} {i : Instr}
    (h : (if s.inRange a n then Host.Outcome.next u else .next (s.raise .outOfBounds i)) =
      (.next t : Host.Outcome State Fault Refusal)) :
    (s.inRange a n = true ∧ t = u) ∨ (s.inRange a n = false ∧ t = s.raise .outOfBounds i) := by
  split at h
  · next h1 => exact .inl ⟨h1, (Host.Outcome.next.inj h).symm⟩
  · next h1 => exact .inr ⟨by simpa using h1, (Host.Outcome.next.inj h).symm⟩

/-- What `SKP` can do. -/
theorem execSkp_cases {s t : State} {x : RegName} (h : execSkp x s = .next t) :
    (keyNamed (s.reg x) = none ∧ t = s.raise .invalidKey (.skp x)) ∨
    ∃ k, keyNamed (s.reg x) = some k ∧ t = s.skipIf (s.keyDown k) := by
  unfold execSkp at h
  split at h
  · next h1 => exact .inl ⟨h1, (Host.Outcome.next.inj h).symm⟩
  · next k h1 => exact .inr ⟨k, h1, (Host.Outcome.next.inj h).symm⟩

/-- What `SKNP` can do. -/
theorem execSknp_cases {s t : State} {x : RegName} (h : execSknp x s = .next t) :
    (keyNamed (s.reg x) = none ∧ t = s.raise .invalidKey (.sknp x)) ∨
    ∃ k, keyNamed (s.reg x) = some k ∧ t = s.skipIf (!s.keyDown k) := by
  unfold execSknp at h
  split at h
  · next h1 => exact .inl ⟨h1, (Host.Outcome.next.inj h).symm⟩
  · next k h1 => exact .inr ⟨k, h1, (Host.Outcome.next.inj h).symm⟩

/-- What `LD Vx, K` can do: store a key's number, or spin (R243). -/
theorem execLdVxK_cases {s t : State} {x : RegName} (h : execLdVxK x s = .next t) :
    (∃ k, t = s.setReg x (keyByte k)) ∨ (∃ k, t = (s.setReg x (keyByte k)).setWait false) ∨
      t = s.reexecute ∨ t = (s.setWait true).reexecute := by
  unfold execLdVxK at h
  split at h
  · have := (Host.Outcome.next.inj h).symm
    unfold keyWaitLevel at this
    split at this
    · next k _ => exact .inl ⟨k, this⟩
    · exact .inr (.inr (.inl this))
  · have := (Host.Outcome.next.inj h).symm
    unfold keyWaitEdge at this
    split at this
    · split at this
      · next k _ => exact .inr (.inl ⟨k, this⟩)
      · exact .inr (.inr (.inl this))
    · exact .inr (.inr (.inr this))

/-- Under `LEVEL` the wait state is never touched (R39). -/
theorem execLdVxK_level {s t : State} {x : RegName} (hl : s.params.keyWaitTrigger = .level)
    (h : execLdVxK x s = .next t) : (∃ k, t = s.setReg x (keyByte k)) ∨ t = s.reexecute := by
  unfold execLdVxK at h
  rw [hl] at h
  have := (Host.Outcome.next.inj h).symm
  unfold keyWaitLevel at this
  split at this
  · next k _ => exact .inl ⟨k, this⟩
  · exact .inr this

end Sys2Proof.Machine
end

