-- ==== Sys2Proof/Laws/PerInstr.lean ====
section
/-! SUPPORT. Facts about every instruction as syntax, one lemma per constructor. -/

namespace Sys2Proof.Laws.Reassembles

open Sys2Proof.Machine

/-- The reported mnemonic and operands of an instruction are well formed and assemble to its word (R112). -/
def Statement (i : Instr) : Prop :=
  (asmOfInstr i).wellFormed = true ∧ assemble (asmOfInstr i) = some (encode i)

theorem cls : Statement .cls := ⟨rfl, rfl⟩

theorem ret : Statement .ret := ⟨rfl, rfl⟩

theorem jp (nnn : BitVec 12) : Statement (.jp nnn) := ⟨rfl, rfl⟩

theorem call (nnn : BitVec 12) : Statement (.call nnn) := ⟨rfl, rfl⟩

theorem seByte (x : RegName) (kk : Byte) : Statement (.seByte x kk) := ⟨rfl, rfl⟩

theorem sneByte (x : RegName) (kk : Byte) : Statement (.sneByte x kk) := ⟨rfl, rfl⟩

theorem seReg (x : RegName) (y : RegName) : Statement (.seReg x y) := ⟨rfl, rfl⟩

theorem ldByte (x : RegName) (kk : Byte) : Statement (.ldByte x kk) := ⟨rfl, rfl⟩

theorem addByte (x : RegName) (kk : Byte) : Statement (.addByte x kk) := ⟨rfl, rfl⟩

theorem ldReg (x : RegName) (y : RegName) : Statement (.ldReg x y) := ⟨rfl, rfl⟩

theorem orReg (x : RegName) (y : RegName) : Statement (.orReg x y) := ⟨rfl, rfl⟩

theorem andReg (x : RegName) (y : RegName) : Statement (.andReg x y) := ⟨rfl, rfl⟩

theorem xorReg (x : RegName) (y : RegName) : Statement (.xorReg x y) := ⟨rfl, rfl⟩

theorem addReg (x : RegName) (y : RegName) : Statement (.addReg x y) := ⟨rfl, rfl⟩

theorem subReg (x : RegName) (y : RegName) : Statement (.subReg x y) := ⟨rfl, rfl⟩

theorem shr (x : RegName) (y : RegName) : Statement (.shr x y) := ⟨rfl, rfl⟩

theorem subnReg (x : RegName) (y : RegName) : Statement (.subnReg x y) := ⟨rfl, rfl⟩

theorem shl (x : RegName) (y : RegName) : Statement (.shl x y) := ⟨rfl, rfl⟩

theorem sneReg (x : RegName) (y : RegName) : Statement (.sneReg x y) := ⟨rfl, rfl⟩

theorem ldI (nnn : BitVec 12) : Statement (.ldI nnn) := ⟨rfl, rfl⟩

theorem jpV0 (nnn : BitVec 12) : Statement (.jpV0 nnn) := ⟨rfl, rfl⟩

theorem rnd (x : RegName) (kk : Byte) : Statement (.rnd x kk) := ⟨rfl, rfl⟩

theorem drw (x : RegName) (y : RegName) (n : BitVec 4) : Statement (.drw x y n) := ⟨rfl, rfl⟩

theorem skp (x : RegName) : Statement (.skp x) := ⟨rfl, rfl⟩

theorem sknp (x : RegName) : Statement (.sknp x) := ⟨rfl, rfl⟩

theorem ldVxDt (x : RegName) : Statement (.ldVxDt x) := ⟨rfl, rfl⟩

theorem ldVxK (x : RegName) : Statement (.ldVxK x) := ⟨rfl, rfl⟩

theorem ldDtVx (x : RegName) : Statement (.ldDtVx x) := ⟨rfl, rfl⟩

theorem ldStVx (x : RegName) : Statement (.ldStVx x) := ⟨rfl, rfl⟩

theorem addIVx (x : RegName) : Statement (.addIVx x) := ⟨rfl, rfl⟩

theorem ldFVx (x : RegName) : Statement (.ldFVx x) := ⟨rfl, rfl⟩

theorem ldBVx (x : RegName) : Statement (.ldBVx x) := ⟨rfl, rfl⟩

theorem ldMemVx (x : RegName) : Statement (.ldMemVx x) := ⟨rfl, rfl⟩

theorem ldVxMem (x : RegName) : Statement (.ldVxMem x) := ⟨rfl, rfl⟩

end Sys2Proof.Laws.Reassembles
end

