-- ==== Sys2Proof/Tests/Slice0.lean ====
section
/-! SUPPORT. Tests: well-formedness smoke tests, decode tests on words written out from the spec, one-step and
command tests on the vectors of spec/95_test_vectors.md (the vector's id stands in each docstring), and for
every statement with hypotheses a witness that meets them. -/

namespace Sys2Proof.Tests

open Sys2Proof.Machine

/-! ## Helpers -/

/-- The construction state with registers set (the start state of the vectors). -/
def unitV (rs : List (RegName × Byte)) : State := rs.foldl (fun s r => s.setReg r.1 r.2) State.reset

/-- The state after one step, if the step answers a next state. -/
def stepped (s : State) : Option State :=
  match step s with
  | .next t => some t
  | _ => none

/-- The state after one step of a word placed at `pc`. -/
def ran (w : Nat) (s : State) : Option State := stepped (s.withFetchWord 16 w)

/-- The latch after a fault. -/
def latched (kind : FaultKind) (pc word : Word) : FaultLatch := { valid := true, kind := kind, pc := pc, word := word }

/-- A state's parameters changed. -/
def withParams (f : Params → Params) (s : State) : State := { s with params := f s.params }

/-- A state with keys pressed. -/
def pressed (ks : List KeyName) (s : State) : State := ks.foldl (fun t k => t.setKeyBit k true) s

/-- A state with `sp` given and the first two stack entries 0x202 and 0x30A. -/
def stacked (sp : Byte) : State :=
  { State.reset with sp := sp, stack := (State.reset.stack.set 0 0x202).set 1 0x30A }

/-- The response and state of a command, if it answers. -/
def did (c : Command) (s : State) : Option (Response × State) :=
  match command c s with
  | .next r => some r
  | _ => none

/-- The state after a list of commands, if they answer. -/
def doneAll (cs : List Command) (s : State) : Option State :=
  match commands cs s with
  | .next r => some r.2
  | _ => none

/-- Bytes placed in memory. -/
def withBytes (a : Nat) (bs : List Byte) (s : State) : State := s.writeBlock a bs

/-- The pixels of a display that are set, as (row, column). -/
def setPixels (s : State) : List (Nat × Nat) :=
  ((List.range 32).map (fun y => ((List.range 64).filter (fun x => pixelAt s.fb x y)).map (fun x => (y, x)))).flatten

/-! ## Well-formedness -/

/-- Each mnemonic with operands of the wrong kind or number is refused. -/
theorem test_asm_ill_formed :
    [(⟨.cls, [.kwI]⟩ : Asm), ⟨.ret, [.reg 0]⟩, ⟨.jp, [.byte 0]⟩, ⟨.jp, [.reg 1, .addr 0x300]⟩, ⟨.call, []⟩,
      ⟨.se, [.reg 1]⟩, ⟨.sne, [.byte 1, .reg 1]⟩, ⟨.ld, [.kwDT, .kwST]⟩, ⟨.ld, [.reg 1, .kwF]⟩, ⟨.add, [.kwI, .kwI]⟩,
      ⟨.or, [.reg 1]⟩, ⟨.and, [.reg 1, .byte 2]⟩].all (fun a => !a.wellFormed) = true ∧
    [(⟨.xor, []⟩ : Asm), ⟨.sub, [.reg 1, .reg 2, .reg 3]⟩, ⟨.shr, [.reg 1]⟩, ⟨.subn, [.kwK, .reg 2]⟩, ⟨.shl, [.reg 1]⟩,
      ⟨.rnd, [.reg 1, .reg 2]⟩, ⟨.drw, [.reg 1, .reg 2]⟩, ⟨.skp, []⟩, ⟨.sknp, [.nibble 1]⟩, ⟨.dw, [.byte 1]⟩].all
      (fun a => !a.wellFormed) = true := by decide

/-- What is ill formed assembles to no word. -/
theorem test_asm_ill_formed_assembles_to_nothing :
    assemble ⟨.jp, [.reg 1, .addr 0x300]⟩ = none ∧ assemble ⟨.shr, [.reg 1]⟩ = none ∧ assemble ⟨.dw, [.byte 1]⟩ = none := by
  decide

/-- Each relation between the parameters, broken alone. -/
theorem test_params_ill_formed :
    Params.wellFormed { conventionalParams with memSize := 65536 } = false ∧
    Params.wellFormed { conventionalParams with entry := 4095 } = false ∧
    Params.wellFormed { conventionalParams with fontBase := 0x1B1 } = false ∧
    Params.wellFormed { conventionalParams with dispW := 7 } = false ∧
    Params.wellFormed { conventionalParams with dispH := 14 } = false ∧
    Params.wellFormed conventionalParams = true := by decide

/-- Memory out of canonical form: out of order, past the end, or listing what an unlisted address reads as. -/
theorem test_memory_ill_formed :
    Memory.wf conventionalParams [(0x301, 1), (0x300, 1)] = false ∧
    Memory.wf conventionalParams [(0x300, 1), (0x300, 2)] = false ∧
    Memory.wf conventionalParams [(4096, 1)] = false ∧
    Memory.wf conventionalParams [(0x300, 0)] = false ∧ Memory.wf conventionalParams [(0, 0xF0)] = false ∧
    Memory.wf conventionalParams [(0, 0), (0x300, 1), (4095, 1)] = true := by decide

/-! ## Decoding: the words of spec/95_test_vectors.md section 3 -/

theorem test_decode_fixed_and_nnn :
    decode 0x00E0#16 = some .cls ∧ decode 0x00EE#16 = some .ret ∧ decode 0x1228#16 = some (.jp 0x228) ∧
    decode 0x2ABC#16 = some (.call 0xABC) ∧ decode 0xA123#16 = some (.ldI 0x123) ∧
    decode 0xB2F0#16 = some (.jpV0 0x2F0) := by decide

theorem test_decode_xkk :
    decode 0x3A42#16 = some (.seByte 0xA 0x42) ∧ decode 0x4A42#16 = some (.sneByte 0xA 0x42) ∧
    decode 0x6005#16 = some (.ldByte 0 0x05) ∧ decode 0x7003#16 = some (.addByte 0 0x03) ∧
    decode 0xC30F#16 = some (.rnd 3 0x0F) := by decide

theorem test_decode_xy :
    decode 0x5AB0#16 = some (.seReg 0xA 0xB) ∧ decode 0x9AB0#16 = some (.sneReg 0xA 0xB) ∧
    decode 0x8AB0#16 = some (.ldReg 0xA 0xB) ∧ decode 0x8AB1#16 = some (.orReg 0xA 0xB) ∧
    decode 0x8AB2#16 = some (.andReg 0xA 0xB) ∧ decode 0x8AB3#16 = some (.xorReg 0xA 0xB) ∧
    decode 0x8AB4#16 = some (.addReg 0xA 0xB) ∧ decode 0x8AB5#16 = some (.subReg 0xA 0xB) ∧
    decode 0x8AB6#16 = some (.shr 0xA 0xB) ∧ decode 0x8AB7#16 = some (.subnReg 0xA 0xB) ∧
    decode 0x8ABE#16 = some (.shl 0xA 0xB) ∧ decode 0xD125#16 = some (.drw 1 2 5) := by decide

theorem test_decode_x :
    decode 0xE19E#16 = some (.skp 1) ∧ decode 0xE1A1#16 = some (.sknp 1) ∧ decode 0xF107#16 = some (.ldVxDt 1) ∧
    decode 0xF30A#16 = some (.ldVxK 3) ∧ decode 0xF115#16 = some (.ldDtVx 1) ∧ decode 0xF218#16 = some (.ldStVx 2) ∧
    decode 0xF31E#16 = some (.addIVx 3) ∧ decode 0xF329#16 = some (.ldFVx 3) ∧ decode 0xF333#16 = some (.ldBVx 3) ∧
    decode 0xF355#16 = some (.ldMemVx 3) ∧ decode 0xF365#16 = some (.ldVxMem 3) := by decide

theorem test_decode_invalid :
    [0x0000#16, 0x0123, 0x5121, 0x800F, 0xE0FF, 0xF0FF, 0xFFFF, 0x00E1, 0x01E0, 0x8AB8, 0x9AB1, 0xE09F, 0xF056].all
      (fun w => (decode w).isNone) = true := by decide

/-- Bits written one by one from the formats of R102: `SE Vx, byte` is 0011, then x, then kk; `DRW` is 1101, then
x, y and n; `LD B, Vx` is 1111, x, 0011 0011. -/
theorem test_decode_bits :
    decode 0b0011101001000010#16 = some (.seByte 0xA 0x42) ∧
    decode 0b1101000100100101#16 = some (.drw 1 2 5) ∧
    decode 0b1111001100110011#16 = some (.ldBVx 3) := by decide

/-- A word numbered as the table numbers it; bits above the row's width are 0. -/
theorem test_decode_table_word :
    decodeTableWord 16 0x8AB4 = some (.addReg 0xA 0xB) ∧ decodeTableWord 16 0x18AB4 = some (.addReg 0xA 0xB) ∧
    decodeTableWord 16 0x0123 = none ∧ decodeBytes [0xD1, 0x25, 0x00] = some (.drw 1 2 5, [0x00]) ∧
    decodeBytes [0xD1] = none := by decide

/-- The texts of section 3 and of R110, R111. -/
theorem test_text :
    fullText (disassembleWord 0x00E0) = "CLS" ∧ fullText (disassembleWord 0x1228) = "JP 0x228" ∧
    fullText (disassembleWord 0x6005) = "LD V0, 0x05" ∧ fullText (disassembleWord 0x8AB6) = "SHR VA, VB" ∧
    fullText (disassembleWord 0xD125) = "DRW V1, V2, 0x5" ∧ fullText (disassembleWord 0xF355) = "LD [I], V3" ∧
    fullText (disassembleWord 0xB2F0) = "JP V0, 0x2F0" ∧ fullText (disassembleWord 0x5121) = "DW 0x5121" ∧
    fullText (disassembleWord 0xF107) = "LD V1, DT" ∧ fullText (disassembleWord 0xE1A1) = "SKNP V1" := by decide

theorem test_reencode :
    reencode ⟨"LD", ["V0", "0x05"]⟩ = some 0x6005 ∧ reencode ⟨"DW", ["0x5121"]⟩ = some 0x5121 ∧
    reencode ⟨"JP", ["V0", "0x2F0"]⟩ = some 0xB2F0 ∧ reencode ⟨"JP", ["V1", "0x2F0"]⟩ = none ∧
    reencode ⟨"NOP", []⟩ = none ∧ reencode ⟨"LD", ["V0", "5"]⟩ = none := by decide

/-! ## The cycle (spec/95 section 2.1) -/

/-- X1 and X2: the last fetchable word. -/
theorem test_fetch_bound :
    stepped { State.reset with pc := 0xFFF } =
      some { State.reset with pc := 0xFFF, fault := latched .outOfBounds 0xFFF 0 } ∧
    (ran 0x1200 { State.reset with pc := 0xFFE }).map State.pc = some 0x200 := by decide

/-- S12 and X7: an invalid word. -/
theorem test_invalid_word :
    (ran 0x0000 State.reset).map (fun t => (t.pc, t.fault)) = some (0x202, latched .invalidOpcode 0x200 0x0000) ∧
    (ran 0x0123 State.reset).map (fun t => (t.pc, t.fault)) = some (0x202, latched .invalidOpcode 0x200 0x0123) := by
  decide

/-- X3: a step while a fault is latched. -/
theorem test_latched_fault :
    did .stepOnce { State.reset with pc := 0x202, fault := latched .invalidOpcode 0x200 0 } =
      some (.stepped (.engineError .invalidOpcode), { State.reset with pc := 0x202, fault := latched .invalidOpcode 0x200 0 }) := by
  decide

/-- `withFetchWord` clears the latch, and a word placed at an odd address runs (R77). -/
theorem test_with_fetch_word :
    (ran 0x6A07 { State.reset with pc := 0x301, fault := latched .invalidKey 0 0 }).map
      (fun t => (t.reg 0xA, t.pc, t.fault.valid)) = some (7, 0x303, false) := by decide

/-! ## Control flow (section 2.2) -/

/-- C-1 and C-2. -/
theorem test_ret :
    (ran 0x00EE State.reset).map (fun t => (t.pc, t.sp, t.fault)) = some (0x202, 0, latched .stackUnderflow 0x200 0x00EE) ∧
    (ran 0x00EE { stacked 2 with pc := 0x400 }).map (fun t => (t.pc, t.sp, t.stackEntry 1)) = some (0x30A, 1, 0x30A) := by
  decide

/-- C-3. -/
theorem test_jp : (ran 0x1FFF State.reset).map State.pc = some 0xFFF := by decide

/-- C-4 and C-6. -/
theorem test_call :
    (ran 0x2ABC State.reset).map (fun t => (t.pc, t.sp, t.stackEntry 0)) = some (0xABC, 1, 0x202) ∧
    (ran 0x2300 { State.reset with pc := 0xFFE }).map (fun t => (t.pc, t.sp, t.stackEntry 0)) = some (0x300, 1, 0x1000) := by
  decide

/-- C-5. -/
theorem test_call_overflow :
    (ran 0x2ABC (stacked 16)).map (fun t => (t.pc, t.sp, t.stack, t.fault)) =
      some (0x202, 16, (stacked 16).stack, latched .stackOverflow 0x200 0x2ABC) := by decide

/-- C-7 and C-8. -/
theorem test_se_byte :
    (ran 0x3A42 (unitV [(0xA, 0x42)])).map State.pc = some 0x204 ∧
    (ran 0x3A42 (unitV [(0xA, 0x41)])).map State.pc = some 0x202 := by decide

/-- C-9 and C-10. -/
theorem test_sne_byte :
    (ran 0x4A42 (unitV [(0xA, 0x42)])).map State.pc = some 0x202 ∧
    (ran 0x4A42 (unitV [(0xA, 0x41)])).map State.pc = some 0x204 := by decide

/-- C-11 and C-12. -/
theorem test_se_reg :
    (ran 0x5AB0 (unitV [(0xA, 7), (0xB, 7)])).map State.pc = some 0x204 ∧
    (ran 0x5AB0 (unitV [(0xA, 7), (0xB, 8)])).map State.pc = some 0x202 := by decide

/-- C-13 and C-14. -/
theorem test_sne_reg :
    (ran 0x9AB0 (unitV [(0xA, 7), (0xB, 7)])).map State.pc = some 0x202 ∧
    (ran 0x9AB0 (unitV [(0xA, 7), (0xB, 8)])).map State.pc = some 0x204 := by decide

/-- C-16 and C-17. -/
theorem test_jp_v0 :
    (ran 0xB300 (unitV [(0, 0x10)])).map State.pc = some 0x310 ∧
    (ran 0xBF01 (unitV [(0, 0xFF)])).map State.pc = some 0x1000 := by decide

/-- C-18 and C-19. -/
theorem test_jp_offset_register :
    (ran 0xB2F0 (withParams (fun p => { p with jumpOffsetReg := .vx }) (unitV [(0, 1), (2, 0x0F)]))).map State.pc = some 0x2FF ∧
    (ran 0xB2F0 (unitV [(0, 1), (2, 0x0F)])).map State.pc = some 0x2F1 := by decide

/-! ## Arithmetic and logic (section 2.3) -/

/-- A-1. -/
theorem test_ld_byte : (ran 0x6AFF State.reset).map (fun t => (t.reg 0xA, t.pc)) = some (0xFF, 0x202) := by decide

/-- A-2 and A-3. -/
theorem test_add_byte :
    (ran 0x7AFF (unitV [(0xA, 2), (0xF, 9)])).map (fun t => (t.reg 0xA, t.reg 0xF)) = some (1, 9) ∧
    (ran 0x7F01 (unitV [(0xF, 0xFF)])).map (fun t => t.reg 0xF) = some 0 := by decide

/-- A-4. -/
theorem test_ld_reg : (ran 0x8AB0 (unitV [(0xB, 0x33)])).map (fun t => (t.reg 0xA, t.reg 0xB)) = some (0x33, 0x33) := by
  decide

/-- A-5 and A-6. -/
theorem test_or :
    (ran 0x8AB1 (unitV [(0xA, 0xF0), (0xB, 0x0F), (0xF, 7)])).map (fun t => (t.reg 0xA, t.reg 0xF)) = some (0xFF, 7) ∧
    (ran 0x8AB1 (withParams (fun p => { p with vfResetOnLogic := true }) (unitV [(0xA, 0xF0), (0xB, 0x0F), (0xF, 7)]))).map
      (fun t => (t.reg 0xA, t.reg 0xF)) = some (0xFF, 0) := by decide

/-- A-7. -/
theorem test_and : (ran 0x8AB2 (unitV [(0xA, 0xF0), (0xB, 0x3C)])).map (fun t => t.reg 0xA) = some 0x30 := by decide

/-- A-8. -/
theorem test_xor : (ran 0x8AB3 (unitV [(0xA, 0xFF), (0xB, 0x0F)])).map (fun t => t.reg 0xA) = some 0xF0 := by decide

/-- A-9 and A-10. -/
theorem test_add_reg :
    (ran 0x8AB4 (unitV [(0xA, 0xFE), (0xB, 1)])).map (fun t => (t.reg 0xA, t.reg 0xF)) = some (0xFF, 0) ∧
    (ran 0x8AB4 (unitV [(0xA, 0xFF), (0xB, 1)])).map (fun t => (t.reg 0xA, t.reg 0xF)) = some (0, 1) := by decide

/-- A-11 and A-12. -/
theorem test_add_reg_vf :
    (ran 0x8FB4 (unitV [(0xF, 0xFF), (0xB, 0xFF)])).map (fun t => t.reg 0xF) = some 1 ∧
    (ran 0x8AF4 (unitV [(0xA, 1), (0xF, 1)])).map (fun t => (t.reg 0xA, t.reg 0xF)) = some (2, 0) := by decide

/-- A-13 and A-14. -/
theorem test_sub :
    (ran 0x8AB5 (unitV [(0xA, 5), (0xB, 5)])).map (fun t => (t.reg 0xA, t.reg 0xF)) = some (0, 1) ∧
    (ran 0x8AB5 (unitV [(0xA, 0), (0xB, 1)])).map (fun t => (t.reg 0xA, t.reg 0xF)) = some (0xFF, 0) := by decide

/-- A-16 and A-17. -/
theorem test_shr :
    (ran 0x8AB6 (unitV [(0xA, 5), (0xB, 0x80)])).map (fun t => (t.reg 0xA, t.reg 0xF)) = some (2, 1) ∧
    (ran 0x8AB6 (withParams (fun p => { p with shiftSource := .vy }) (unitV [(0xA, 5), (0xB, 0x80)]))).map
      (fun t => (t.reg 0xA, t.reg 0xF)) = some (0x40, 0) := by decide

/-- A-19 and A-21. -/
theorem test_subn :
    (ran 0x8AB7 (unitV [(0xA, 3), (0xB, 5)])).map (fun t => (t.reg 0xA, t.reg 0xF)) = some (2, 1) ∧
    (ran 0x8AB7 (unitV [(0xA, 5), (0xB, 3)])).map (fun t => (t.reg 0xA, t.reg 0xF)) = some (0xFE, 0) := by decide

/-- A-22 and A-23. -/
theorem test_shl :
    (ran 0x8ABE (unitV [(0xA, 0x81), (0xB, 1)])).map (fun t => (t.reg 0xA, t.reg 0xF)) = some (2, 1) ∧
    (ran 0x8ABE (withParams (fun p => { p with shiftSource := .vy }) (unitV [(0xA, 0x81), (0xB, 1)]))).map
      (fun t => (t.reg 0xA, t.reg 0xF)) = some (2, 0) := by decide

/-- A-25: the masked value of a draw; the draw itself is free. -/
theorem test_rnd : maskedDraw 0xAB 0x0F = 0x0B ∧ (ran 0xC30F State.reset).map (fun t => (t.rngDraws, t.pc)) = some (1, 0x202) := by
  decide

/-! ## Index register and memory (section 2.4) -/

/-- M-1. -/
theorem test_ld_i : (ran 0xA123 State.reset).map State.i = some 0x123 := by decide

/-- M-2 and M-3. -/
theorem test_add_i :
    (ran 0xF31E { unitV [(3, 1)] with i := 0xFFF }).map (fun t => (t.i, t.reg 0xF)) = some (0x1000, 0) ∧
    (ran 0xF31E { unitV [(3, 2)] with i := 0xFFFF }).map (fun t => (t.i, t.reg 0xF)) = some (1, 0) := by decide

/-- M-5 and M-6. -/
theorem test_ld_f :
    (ran 0xF329 (unitV [(3, 0x1A)])).map State.i = some 0x032 ∧
    (ran 0xF329 (withParams (fun p => { p with fontDigitMode := .full }) (unitV [(3, 0x1A)]))).map State.i = some 0x082 := by
  decide

/-- M-7 and M-10. -/
theorem test_ld_b :
    (ran 0xF333 { unitV [(3, 0xFE)] with i := 0x300 }).map (fun t => (t.readBlock 0x2FF 5, t.i)) = some ([0, 2, 5, 4, 0], 0x300) ∧
    (ran 0xF333 { unitV [(3, 0x64)] with i := 0xFFE }).map (fun t => (t.readBlock 0xFFE 2, t.pc, t.fault)) =
      some ([0, 0], 0x202, latched .outOfBounds 0x200 0xF333) := by decide

/-- M-11 and M-12. -/
theorem test_ld_mem_vx :
    (ran 0xF255 { unitV [(0, 1), (1, 2), (2, 3), (3, 4)] with i := 0x300 }).map (fun t => (t.readBlock 0x300 4, t.i)) =
      some ([1, 2, 3, 0], 0x300) ∧
    (ran 0xF255 (withParams (fun p => { p with loadStoreIIncrement := true }) { unitV [(2, 3)] with i := 0x300 })).map State.i =
      some 0x303 := by decide

/-- M-13 and M-14. -/
theorem test_ld_mem_vx_top :
    (ran 0xFF55 { unitV [(0xF, 9)] with i := 0xFF0 }).map (fun t => (t.byteAt 0xFFE, t.byteAt 0xFFF)) = some (0, 9) ∧
    (ran 0xFF55 { unitV [(0xF, 9)] with i := 0xFF1 }).map (fun t => (t.byteAt 0xFFF, t.fault)) =
      some (0, latched .outOfBounds 0x200 0xFF55) := by decide

/-- M-15 and M-16. -/
theorem test_ld_vx_mem :
    (ran 0xF165 (withBytes 0x300 [9, 8, 7] { unitV [(2, 5)] with i := 0x300 })).map (fun t => (t.reg 0, t.reg 1, t.reg 2, t.i)) =
      some (9, 8, 5, 0x300) ∧
    (ran 0xF165 (withParams (fun p => { p with loadStoreIIncrement := true }) (withBytes 0x300 [9, 8] { State.reset with i := 0x300 }))).map
      State.i = some 0x302 := by decide

/-- M-17: the font is what memory holds at construction. -/
theorem test_ld_vx_font : (ran 0xF065 State.reset).map (fun t => t.reg 0) = some 0xF0 := by decide

/-! ## Display (section 2.5) -/

/-- D-1. -/
theorem test_cls :
    (ran 0x00E0 { State.reset with fb := flipPixel State.reset.fb 5 6 }).map (fun t => (decide (t.fb = State.reset.fb), t.pc)) =
      some (true, 0x202) := by decide

/-- D-6 and D-7. -/
theorem test_drw :
    (ran 0xD011 (unitV [(0, 0x41), (1, 0x21)])).map (fun t => (setPixels t, t.reg 0xF)) =
      some ([(1, 1), (1, 2), (1, 3), (1, 4)], 0) ∧
    ((ran 0xD011 (unitV [(0, 0x41), (1, 0x21)])).bind (fun t => ran 0xD011 { t with pc := 0x200 })).map
      (fun t => (setPixels t, t.reg 0xF)) = some ([], 1) := by decide

/-- D-2 and D-3. -/
theorem test_drw_bounds :
    (ran 0xD120 { unitV [(0xF, 7)] with i := 0xFFF }).map (fun t => (t.fault.valid, t.reg 0xF)) = some (false, 0) ∧
    (ran 0xD122 { unitV [(0xF, 7)] with i := 0xFFF }).map (fun t => (t.fault, t.reg 0xF)) =
      some (latched .outOfBounds 0x200 0xD122, 7) := by decide

/-! ## Keys and timers (section 2.6) -/

/-- K-1 and K-5. -/
theorem test_skp :
    (ran 0xE19E (pressed [5] (unitV [(1, 5)]))).map State.pc = some 0x204 ∧
    (ran 0xE19E (unitV [(1, 0x10)])).map (fun t => (t.pc, t.fault)) = some (0x202, latched .invalidKey 0x200 0xE19E) := by decide

/-- K-3 and K-4. -/
theorem test_sknp :
    (ran 0xE1A1 (unitV [(1, 5)])).map State.pc = some 0x204 ∧
    (ran 0xE1A1 (pressed [5] (unitV [(1, 5)]))).map State.pc = some 0x202 := by decide

/-- K-7 and K-8. -/
theorem test_key_wait_level :
    (ran 0xF30A (unitV [(3, 0x55)])).map (fun t => (t.pc, t.reg 3, t.fault.valid)) = some (0x200, 0x55, false) ∧
    (ran 0xF30A (pressed [7, 3] State.reset)).map (fun t => (t.pc, t.reg 3)) = some (0x202, 3) := by decide

/-- K-9 and K-10. -/
theorem test_key_wait_edge :
    doneAll [.stepOnce, .stepOnce] ((withParams (fun p => { p with keyWaitTrigger := .edge }) (pressed [9] State.reset)).withFetchWord 16 0xF30A) =
      some { ((withParams (fun p => { p with keyWaitTrigger := .edge }) (pressed [9] State.reset)).withFetchWord 16 0xF30A) with
        waitArmed := true } ∧
    (doneAll [.stepOnce, .stepOnce, .setKey 9 false, .setKey 4 true, .stepOnce]
      ((withParams (fun p => { p with keyWaitTrigger := .edge }) (pressed [9] State.reset)).withFetchWord 16 0xF30A)).map
      (fun t => (t.pc, t.reg 3, t.waitArmed, t.keyEvents)) = some (0x202, 4, false, noEvents) := by decide

/-- K-11. -/
theorem test_ld_vx_dt : (ran 0xF107 { State.reset with dt := 0x3C }).map (fun t => t.reg 1) = some 0x3C := by decide

/-- K-12, first part. -/
theorem test_ld_dt_vx : (ran 0xF115 (unitV [(1, 0x3C)])).map (fun t => (t.dt, t.st)) = some (0x3C, 0) := by decide

/-- K-13: the sound signal is on after one tick and off after two; K-14. -/
theorem test_ld_st_vx :
    ((ran 0xF218 (unitV [(2, 2)])).map (fun t => (t.soundActive, t.tick.soundActive, t.tick.tick.soundActive))) =
      some (true, true, false) ∧
    (ran 0xF218 { State.reset with st := 5 }).map State.soundActive = some false := by decide

/-! ## Commands (section 4) -/

/-- S14 and S15. -/
theorem test_command_errors :
    did (.setKey 16 true) State.reset = some (.invalidKey, State.reset) ∧
    did (.load (List.replicate 3585 1)) State.reset = some (.capacityExceeded, State.reset) := by decide +kernel

/-- X4 and X5: `TICK` and `RESET` with a fault latched; H-14: what `RESET` leaves. -/
theorem test_reset_and_tick :
    doneAll [.tick] { State.reset with dt := 5, fault := latched .invalidOpcode 0x200 0 } =
      some { State.reset with dt := 4, fault := latched .invalidOpcode 0x200 0 } ∧
    doneAll [.reset] (withBytes 0x300 [1] (pressed [2] { unitV [(1, 1)] with
      bp := [0x300], fault := latched .invalidOpcode 0x200 0, mode := .running, st := 3, i := 4 })) =
      some (withBytes 0x300 [1] (pressed [2] State.reset)) := by decide

/-- H-1, H-2 and H-3. -/
theorem test_disassemble :
    did (.disassemble 0x200) (withBytes 0x200 [0x12, 0x28] State.reset) =
      some (.disassembly ⟨"JP", ["0x228"]⟩, withBytes 0x200 [0x12, 0x28] State.reset) ∧
    did (.disassemble 0x201) (withBytes 0x200 [0x12, 0x28] State.reset) =
      some (.disassembly ⟨"CALL", ["0x800"]⟩, withBytes 0x200 [0x12, 0x28] State.reset) ∧
    did (.disassemble 0xFFF) State.reset = some (.outOfBounds, State.reset) := by decide

/-- H-4, H-5 and H-6. -/
theorem test_dump_memory :
    did (.dumpMemory 0 5) State.reset = some (.bytes [0xF0, 0x90, 0x90, 0x90, 0xF0], State.reset) ∧
    did (.dumpMemory 0xFFF 0x1000) State.reset = some (.bytes [0], State.reset) ∧
    did (.dumpMemory 0x10 0x0F) State.reset = some (.outOfBounds, State.reset) ∧
    did (.dumpMemory 0 0x1001) State.reset = some (.outOfBounds, State.reset) := by decide

/-- H-7, H-8 and H-9. -/
theorem test_run_slice :
    did (.runSlice 5) State.reset = some (.notRunning, State.reset) ∧
    did (.runSlice 0) (State.reset.setMode .running) = some (.keepRunning, State.reset.setMode .running) ∧
    (did (.runSlice 10) (State.reset.setMode .running)).map (fun r => (r.1, r.2.mode, r.2.pc)) =
      some (.stepped (.engineError .invalidOpcode), .halted, 0x202) := by decide

/-- H-10 and H-11: a breakpoint at the post-step `pc`, and a fault outranking it. -/
theorem test_breakpoint_and_fault :
    (did (.runSlice 10) (withBytes 0x200 [0x00, 0xE0] { State.reset with bp := [0x202], mode := .running })).map
      (fun r => (r.1, r.2.mode, r.2.pc, r.2.fault.valid)) = some (.breakpoint 0x202, .halted, 0x202, false) ∧
    (did (.runSlice 10) { State.reset with bp := [0x202], mode := .running }).map Prod.fst =
      some (.stepped (.engineError .invalidOpcode)) := by decide

/-- H-13. -/
theorem test_breakpoint_set :
    (doneAll [.addBp 0x301, .addBp 0x301, .removeBp 0x400] State.reset).map State.bp = some [0x301] ∧
    (doneAll [.addBp 0x301, .addBp 0x200, .addBp 0x250, .removeBp 0x301] State.reset).map State.bp = some [0x200, 0x250] := by decide

/-- H-15. -/
theorem test_load :
    (doneAll [.load [1, 2, 3, 4, 5, 6], .load [9, 8]] State.reset).map (fun t => (t.readBlock 0x200 7, t.pc)) =
      some ([9, 8, 3, 4, 5, 6, 0], 0x200) := by decide

/-- H-18. -/
theorem test_step_instruction :
    (did .stepInstruction (withBytes 0x200 [0x60, 0x05] { State.reset with bp := [0x200], mode := .running })).map
      (fun r => (decide (r.1 = .steppedInstruction (some ⟨"LD", ["V0", "0x05"]⟩) r.2.snapshot .ok), r.2.reg 0, r.2.pc, r.2.mode)) =
      some (true, 5, 0x202, .halted) := by decide

/-- R313: 64 * 32 booleans, row-major. -/
theorem test_read_fb :
    (did .readFb { State.reset with fb := flipPixel State.reset.fb 3 2 }).map
      (fun r => match r.1 with
        | .pixels g => (g.length, g.idxOf true)
        | _ => (0, 0)) = some (2048, 131) := by decide +kernel

/-- R300, D24: the codes. -/
theorem test_codes :
    [FaultKind.none, .invalidOpcode, .stackOverflow, .stackUnderflow, .outOfBounds, .invalidKey].map FaultKind.code =
      [0, 1, 2, 3, 4, 5] ∧
    Response.capacityExceeded.errorCode = some 6 ∧ [RunMode.halted, .running, .stepping].map RunMode.code = [0, 1, 2] := by decide

/-- H-17: a step of the fresh unit. -/
theorem test_fresh_unit :
    stepped State.reset = some { State.reset with pc := 0x202, fault := latched .invalidOpcode 0x200 0 } := by decide

/-! ## Witnesses: a state and operands that meet the hypotheses of each statement, at the ends of each clause -/

/-- A state of the unit that is not the reset state: a full stack, a `RET` at `pc`, breakpoints, running. -/
def busyUnit : State :=
  { withBytes 0x200 [0x00, 0xEE] (stacked 16) with
    bp := [0x200, 0x301]
    mode := .running }

theorem test_inv_witness : State.Inv busyUnit where
  params := by decide
  mem := by decide
  sp := by decide
  fb := displayShaped_blank _
  bp := by unfold risingAddrs; decide
  mode := by decide
  fault := .inl rfl
  wait := by decide

theorem test_witness_DecodeReadsBackEveryInstruction : (Instr.drw 15 0 15).wellFormed = true := by decide

theorem test_witness_EncodeGivesBackTheDecodedWord : decode 0xDF0F = some (.drw 15 0 15) := by decide

/-- The last row of the table, and a word that matches it. -/
theorem test_witness_DecodeIsTheTableOfMatchAndMask :
    rom[33]? = some (0xF065#16, 0xF0FF#16) ∧ rom[34]? = none ∧ (0xFF65#16 &&& 0xF0FF#16 = 0xF065#16) := by decide

/-- The last fetchable `pc`. -/
theorem test_witness_StepRunsTheDecodedInstruction :
    let s := withBytes 0xFFE [0x12, 0x00] { State.reset with pc := 0xFFE }
    s.fault.valid = false ∧ s.pc.toNat + 1 < s.params.memSize ∧
    decode (s.byteAt s.pc.toNat ++ s.byteAt (s.pc.toNat + 1)) = some (.jp 0x200) := by decide

/-- A latched fault, and a command that is not `RESET` and answers. -/
theorem test_witness_LatchedFaultStaysUntilReset :
    let s := { State.reset with fault := latched .outOfBounds 0xFFF 0 }
    s.fault.valid = true ∧ Command.tick ≠ Command.reset ∧ (did .tick s).isSome = true := by decide

/-- The first and the last `pc` that cannot be fetched from. -/
theorem test_witness_FetchOutOfBoundsFaults :
    (State.reset.fault.valid = false) ∧ State.reset.params.memSize ≤ (0xFFF : Word).toNat + 1 ∧
    State.reset.params.memSize ≤ (0xFFFF : Word).toNat + 1 := by decide

theorem test_witness_InvalidWordFaults :
    let s := withBytes 0xFFE [0x01, 0x23] { State.reset with pc := 0xFFE }
    s.fault.valid = false ∧ s.pc.toNat + 1 < s.params.memSize ∧
    (0x0123 : Word) = s.byteAt s.pc.toNat ++ s.byteAt (s.pc.toNat + 1) ∧ decode 0x0123 = none := by decide

/-- A fetch fault, and a fault of the last fetchable word. -/
theorem test_witness_FaultsArePrecise :
    (stepped { State.reset with pc := 0xFFF }).map (fun t => t.fault.valid) = some true ∧
    (stepped { State.reset with pc := 0xFFE }).map (fun t => t.fault.valid) = some true ∧
    State.reset.fault.valid = false := by decide

/-- `sp = 16`: a step that faults and a step that does not. -/
theorem test_witness_StepFaultsExactlyByTheTable :
    let s := (stacked 16).withFetchWord 16 0x2ABC
    let t := (stacked 16).withFetchWord 16 0x00EE
    s.fault.valid = false ∧ s.sp.toNat ≤ 16 ∧ stepFault s = some .stackOverflow ∧
    t.fault.valid = false ∧ t.sp.toNat ≤ 16 ∧ stepFault t = none := by decide

theorem test_witness_StackPointerPastTheStackStops : 16 < (stacked 17).sp.toNat ∧ 16 < (stacked 255).sp.toNat := by decide

theorem test_witness_StepKeepsTheInvariant :
    (stepped busyUnit).map State.sp = some 15 := by decide

theorem test_witness_EveryCommandSequenceKeepsTheInvariant :
    (doneAll [.tick, .halt, .stepOnce, .reset] busyUnit).isSome = true := by decide

/-- The parameter set, with `x = 15`. -/
theorem test_witness_LogicResultsAndFlagReset :
    (withParams (fun p => { p with vfResetOnLogic := true }) State.reset).params.vfResetOnLogic = true := by decide

/-- A destination other than VF: the last one. -/
theorem test_witness_AddSetsTheCarry : (14 : RegName) ≠ 15 := by decide

theorem test_witness_SubtractionsSetNotBorrow : (0 : RegName) ≠ 15 := by decide

theorem test_witness_ShiftRightHalves :
    (0x80 : Byte) = (match (withParams (fun p => { p with shiftSource := .vy }) (unitV [(1, 0x80)])).params.shiftSource with
      | .vx => (unitV [(1, 0x80)]).reg 0
      | .vy => (unitV [(1, 0x80)]).reg 1) ∧ (0 : RegName) ≠ 15 := by decide

theorem test_witness_ShiftLeftDoubles :
    (0x81 : Byte) = (match (unitV [(0, 0x81)]).params.shiftSource with
      | .vx => (unitV [(0, 0x81)]).reg 0
      | .vy => (unitV [(0, 0x81)]).reg 1) ∧ (0 : RegName) ≠ 15 := by decide

/-- `RND` draws for a register other than the one looked at. -/
theorem test_witness_RandomIsTheMaskedDraw : (14 : RegName) ≠ 15 := by decide

theorem test_witness_RegistersChangeOnlyWhereNamed :
    (stepped ((unitV [(0xA, 0xFF), (0xB, 1)]).withFetchWord 16 0x8AB4)).isSome = true ∧
    mayWriteReg State.reset.params (.addReg 0xA 0xB) 14 = false ∧ mayWriteReg State.reset.params (.ldVxMem 14) 15 = false := by
  decide

/-- One entry free, and none. -/
theorem test_witness_CallPushesTheReturnAddress : (stacked 15).sp.toNat < 16 ∧ (stacked 16).sp.toNat = 16 := by decide

/-- The lowest and the highest live entry, and none. -/
theorem test_witness_RetPopsTheReturnAddress :
    (stacked 1).sp.toNat = (0 : Fin 16).val + 1 ∧ (stacked 16).sp.toNat = (15 : Fin 16).val + 1 ∧ (stacked 0).sp.toNat = 0 := by
  decide

theorem test_witness_SkipsOnARegister : (1 : BitVec 4) ≠ 0 ∧ (15 : BitVec 4) ≠ 0 := by decide

theorem test_witness_CallThenRetComesBack : (stacked 15).sp.toNat < 16 ∧ (0 : Fin 16).val ≠ (stacked 15).sp.toNat := by decide

/-- A `CALL` that writes an entry and `sp`. -/
theorem test_witness_StackIsWrittenOnlyByCall :
    (ran 0x2ABC (stacked 1)).map (fun t => (decide (t.stackEntry 1 ≠ (stacked 1).stackEntry 1), decide (t.sp ≠ (stacked 1).sp))) =
      some (true, true) := by decide

/-- The last block of three bytes inside memory, and the first outside it. -/
theorem test_witness_DecimalDigitsAreStored :
    Memory.wf State.reset.params State.reset.mem = true ∧ (0xFFD : Word).toNat + 3 ≤ State.reset.params.memSize ∧
    State.reset.params.memSize < (0xFFE : Word).toNat + 3 := by decide

/-- Sixteen registers at the last block inside memory, and at the first outside it. -/
theorem test_witness_RegistersAreStored :
    Memory.wf State.reset.params State.reset.mem = true ∧
    (0xFF0 : Word).toNat + (15 : RegName).val + 1 ≤ State.reset.params.memSize ∧
    State.reset.params.memSize < (0xFF1 : Word).toNat + (15 : RegName).val + 1 := by decide

/-- One register at the last byte of memory, and two. -/
theorem test_witness_RegistersAreLoaded :
    (0xFFF : Word).toNat + (0 : RegName).val + 1 ≤ State.reset.params.memSize ∧
    State.reset.params.memSize < (0xFFF : Word).toNat + (1 : RegName).val + 1 := by decide

theorem test_witness_StoreThenLoadRestoresRegisters :
    let s := { unitV [(0, 7), (15, 9)] with i := 0xFF0 }
    Memory.wf s.params s.mem = true ∧ s.i.toNat + (15 : RegName).val + 1 ≤ s.params.memSize ∧
    (ran 0xFF55 s).isSome = true := by decide

theorem test_witness_MemoryChangesOnlyWhereStored :
    let s := { unitV [(0, 7), (15, 9)] with i := 0xFF0 }
    Memory.wf s.params s.mem = true ∧ (ran 0xFE55 s).isSome = true ∧ storesTo (.ldMemVx 14) s 0xFEF = false ∧
    storesTo (.ldMemVx 14) s 0xFFF = false ∧ storesTo (.ldMemVx 14) s 0xFFE = true := by decide

/-- The last address of memory and the first past it. -/
theorem test_witness_ByteReadsAndWrites :
    Memory.wf State.reset.params State.reset.mem = true ∧ 0xFFF < State.reset.params.memSize ∧
    State.reset.params.memSize ≤ 0x1000 ∧ (0 : Nat) ≠ 0xFFF := by decide

/-- A sprite that ends at the top of memory, one that passes it, and one of height 0 past memory. -/
theorem test_witness_DrawFlipsTheCoveredPixels :
    8 ≤ State.reset.params.dispW ∧ 15 ≤ State.reset.params.dispH ∧ displayShaped State.reset.params State.reset.fb ∧
    (0xFF1 : Word).toNat + (15 : BitVec 4).toNat ≤ State.reset.params.memSize ∧
    State.reset.params.memSize < (0xFF2 : Word).toNat + (15 : BitVec 4).toNat ∧ 0 < (15 : BitVec 4).toNat ∧
    State.reset.params.memSize < (0xFFFF : Word).toNat + (0 : BitVec 4).toNat :=
  ⟨by decide, by decide, displayShaped_blank _, by decide, by decide, by decide, by decide⟩

/-- A covered pixel that is set, and one that is not: `VF` is 1, and 0. -/
theorem test_witness_DrawFlips_collision :
    let s := { State.reset with fb := flipPixel State.reset.fb 3 0 }
    pixelAt s.fb 3 0 = true ∧ spriteCovers s 0 0 1 3 0 = true ∧ spriteCovers s 0 0 1 4 0 = false ∧
    (ran 0xD001 s).map (fun t => t.reg 15) = some 1 ∧ (ran 0xD001 State.reset).map (fun t => t.reg 15) = some 0 := by decide

theorem test_witness_DrawingTwiceRestoresTheDisplay :
    8 ≤ State.reset.params.dispW ∧ 15 ≤ State.reset.params.dispH ∧ displayShaped State.reset.params State.reset.fb ∧
    (0 : RegName) ≠ 15 ∧ (14 : RegName) ≠ 15 ∧
    State.reset.i.toNat + (15 : BitVec 4).toNat ≤ State.reset.params.memSize ∧ (ran 0xD0EF State.reset).isSome = true :=
  ⟨by decide, by decide, displayShaped_blank _, by decide, by decide, by decide, by decide⟩

/-- Each field changed by the instruction that may change it. -/
theorem test_witness_EachDeviceHasItsOwnInstructions :
    (ran 0xD001 State.reset).map (fun t => decide (t.fb ≠ State.reset.fb)) = some true ∧
    (ran 0xF115 (unitV [(1, 1)])).map (fun t => decide (t.dt ≠ 0)) = some true ∧
    (ran 0xF118 (unitV [(1, 1)])).map (fun t => decide (t.st ≠ 0)) = some true ∧
    (ran 0xA001 State.reset).map (fun t => decide (t.i ≠ 0)) = some true ∧
    (ran 0xF165 (withParams (fun p => { p with loadStoreIIncrement := true }) State.reset)).map (fun t => decide (t.i ≠ 0)) =
      some true ∧
    (ran 0xF10A (withParams (fun p => { p with keyWaitTrigger := .edge }) State.reset)).map State.waitArmed = some true ∧
    (ran 0xC1FF State.reset).map (fun t => decide (t.rngDraws ≠ 0)) = some true := by decide

/-- The highest key, and the first number that names none. -/
theorem test_witness_SkipsOnAKey :
    ((unitV [(1, 0x0F)]).reg 1).toNat = (15 : KeyName).val ∧ ((unitV [(1, 0)]).reg 1).toNat = (0 : KeyName).val ∧
    0x0F < ((unitV [(1, 0x10)]).reg 1).toNat := by decide

/-- The lowest and the highest key alone, no key; under `EDGE`, not armed, and armed with an event and with none. -/
theorem test_witness_KeyWaitStoresTheLowestKeyOrRepeats :
    State.reset.params.keyWaitTrigger = .level ∧ (pressed [15] State.reset).keyDown 15 = true ∧
    (∀ j : KeyName, j < 15 → (pressed [15] State.reset).keyDown j = false) ∧ (pressed [0] State.reset).keyDown 0 = true ∧
    (∀ k : KeyName, State.reset.keyDown k = false) ∧
    (withParams (fun p => { p with keyWaitTrigger := .edge }) State.reset).params.keyWaitTrigger = .edge ∧
    (withParams (fun p => { p with keyWaitTrigger := .edge }) State.reset).waitArmed = false ∧
    (∀ j : KeyName, j < 15 → (State.reset.keyEvents.set 15 true)[j.val] = false) ∧
    (State.reset.keyEvents.set 15 true)[15] = true ∧ (∀ k : KeyName, State.reset.keyEvents[k.val] = false) := by decide

/-- The first index that names no key. -/
theorem test_witness_SetKeyUpdatesTheLatch : 15 < 16 ∧ (15 : KeyName).val = 15 := by decide

/-- An image that fills the region, and one that is a byte too long. -/
theorem test_witness_LoadCopiesTheImage :
    State.reset.params.entry ≤ State.reset.params.memSize ∧ Memory.wf State.reset.params State.reset.mem = true ∧
    (List.replicate 3584 (1 : Byte)).length ≤ State.reset.params.memSize - State.reset.params.entry ∧
    State.reset.params.memSize - State.reset.params.entry < (List.replicate 3585 (1 : Byte)).length := by
  simp only [List.length_replicate]
  decide

/-- Each way a slice ends: not running, budget spent, fault, breakpoint. -/
theorem test_witness_RunSliceStopsAtTheFirstBreakpoint :
    (did (.runSlice 1) State.reset).isSome = true ∧ State.reset.mode ≠ .running ∧
    (did (.runSlice 1) (withBytes 0x200 [0x00, 0xE0] (State.reset.setMode .running))).map Prod.fst = some .keepRunning ∧
    (did (.runSlice 1) (State.reset.setMode .running)).map Prod.fst = some (.stepped (.engineError .invalidOpcode)) ∧
    (did (.runSlice 2) (withBytes 0x200 [0x00, 0xE0, 0x00, 0xE0] { State.reset with mode := .running, bp := [0x204] })).map Prod.fst =
      some (.breakpoint 0x204) := by decide

theorem test_witness_RunModeCommands : (State.reset.setMode .running).mode = .running := by decide

/-- A step of a word that can be fetched, and one of a word that cannot. -/
theorem test_witness_StepInstructionIsOneStep :
    (stepped { State.reset with pc := 0xFFE }).isSome = true ∧ (stepped { State.reset with pc := 0xFFF }).isSome = true ∧
    (0xFFE : Word).toNat + 1 < State.reset.params.memSize ∧ ¬ ((0xFFF : Word).toNat + 1 < State.reset.params.memSize) := by decide

theorem test_witness_StepIgnoresModeAndBreakpoints :
    (stepped { State.reset with mode := .running, bp := [0x200, 0x202] }).isSome = true := by decide

/-- The last word and the first address past it; an empty and a whole dump; a range that is turned round and one
that passes memory. -/
theorem test_witness_IntrospectionReadsAndChangesNothing :
    (0xFFE : Word).toNat + 1 < State.reset.params.memSize ∧ State.reset.params.memSize ≤ (0xFFF : Word).toNat + 1 ∧
    (4096 ≤ 4096 ∧ 4096 ≤ State.reset.params.memSize) ∧ (0 ≤ 4096 ∧ 4096 ≤ State.reset.params.memSize) ∧ 0x0F < 0x10 ∧
    State.reset.params.memSize < 4097 := by decide

/-- The last pixel. -/
theorem test_witness_ReadFramebufferIsRowMajor :
    displayShaped State.reset.params State.reset.fb ∧ 63 < State.reset.params.dispW ∧ 31 < State.reset.params.dispH :=
  ⟨displayShaped_blank _, by decide, by decide⟩

/-- A parked state without a fault and one with, and a waiting one under each reading of the wait. -/
theorem test_witness_ParkedAndWaitingStatesStay :
    (State.reset.withFetchWord 16 0x1200).parked = true ∧
    ((State.reset.withFetchWord 16 0x1200).latch .invalidKey 0x1FE 0xE39E).parked = true ∧
    (State.reset.withFetchWord 16 0xF30A).waiting = true ∧
    State.reset.params.keyWaitTrigger = .level ∧
    ((withParams (fun p => { p with keyWaitTrigger := .edge }) State.reset).withFetchWord 16 0xF30A).waiting = true := by decide

/-- R328 with R141: with a fault latched a step executes nothing, so `LD V3, K` at `pc` with no key pressed is no
waiting state, under either reading of the wait. -/
theorem test_faulted_is_not_waiting :
    ((State.reset.withFetchWord 16 0xF30A).latch .invalidKey 0x1FE 0xE39E).waiting = false ∧
    (((withParams (fun p => { p with keyWaitTrigger := .edge }) State.reset).withFetchWord 16 0xF30A).latch
      .invalidKey 0x1FE 0xE39E).waiting = false := by decide

end Sys2Proof.Tests
end

section
/-! The invariant along every command list (spec/00_scope.md R6, R7, R35, R41, R312). A step may run in the mode
Stepping, which the invariant shuts out between commands (R41, R321); so what a step keeps is said of the invariant
without its clause about `MODE`. -/

namespace Sys2Proof.Machine

/-! ### The invariant in any mode -/

/-- Every clause of the invariant but the one about `MODE`: the invariant of the state once it is halted. -/
def State.InvAnyMode (s : State) : Prop := (s.setMode .halted).Inv

theorem State.invAnyMode_setMode {s : State} {m : RunMode} : (s.setMode m).InvAnyMode ↔ s.InvAnyMode := Iff.rfl

theorem State.inv_iff {s : State} : s.Inv ↔ s.InvAnyMode ∧ s.mode ≠ .stepping := by
  constructor
  · intro h
    exact ⟨{ h with mode := by simp }, h.mode⟩
  · rintro ⟨h, hm⟩
    exact { h with mode := hm }

theorem State.Inv.anyMode {s : State} (h : s.Inv) : s.InvAnyMode := (State.inv_iff.1 h).1

theorem State.Inv.setMode {s : State} {m : RunMode} (h : s.Inv) (hm : m ≠ .stepping) : (s.setMode m).Inv :=
  State.inv_iff.2 ⟨h.anyMode, hm⟩

/-- What every operation of an instruction does to the invariant from `s` to `t`: the parameters and `MODE` stay,
and no other clause is lost. -/
structure State.Keeps (s t : State) : Prop where
  params : t.params = s.params
  mode : t.mode = s.mode
  inv : s.InvAnyMode → t.InvAnyMode

theorem State.Keeps.refl (s : State) : s.Keeps s := ⟨rfl, rfl, id⟩

theorem State.Keeps.trans {s t u : State} (h : s.Keeps t) (h' : t.Keeps u) : s.Keeps u :=
  ⟨h'.params.trans h.params, h'.mode.trans h.mode, h'.inv ∘ h.inv⟩

theorem State.Keeps.inv_of_inv {s t : State} (h : s.Keeps t) (hs : s.Inv) : t.Inv :=
  State.inv_iff.2 ⟨h.inv hs.anyMode, h.mode ▸ hs.mode⟩

/-! ### What each operation keeps -/

/-- The fields no clause of the invariant speaks of may take any value. -/
theorem State.keeps_of_unguarded (s : State) (v : Vector Byte 16) (i pc : Word) (stack : Vector Word 16) (dt st : Byte)
    (key : Vector Bool 16) (n : Nat) :
    s.Keeps { s with v := v, i := i, pc := pc, stack := stack, dt := dt, st := st, key := key, rngDraws := n } :=
  ⟨rfl, rfl, fun h => { h with }⟩

theorem State.keeps_skipIf (s : State) (c : Bool) : s.Keeps (s.skipIf c) := by
  cases c
  · exact .refl s
  · exact s.keeps_of_unguarded ..

theorem State.keeps_setLogic (s : State) (r : RegName) (b : Byte) : s.Keeps (s.setLogic r b) := by
  unfold State.setLogic
  split <;> exact s.keeps_of_unguarded ..

theorem State.keeps_latch (s : State) {k : FaultKind} (hk : k ≠ .none) (a w : Word) : s.Keeps (s.latch k a w) :=
  ⟨rfl, rfl, fun h => { h with fault := .inr ⟨rfl, hk⟩ }⟩

theorem State.keeps_raise (s : State) {k : FaultKind} (hk : k ≠ .none) (i : Instr) : s.Keeps (s.raise k i) :=
  s.keeps_latch hk _ _

theorem State.keeps_pushReturn {s : State} (h : s.sp.toNat < 16) : s.Keeps (s.pushReturn ⟨s.sp.toNat, h⟩) := by
  have hsp : (s.sp + 1).toNat ≤ 16 := by bv_omega
  exact ⟨rfl, rfl, fun hs => { hs with sp := hsp }⟩

theorem State.keeps_popReturn {s : State} (h : s.sp.toNat ≠ 0) (k : Fin 16) : s.Keeps (s.popReturn k) := by
  refine ⟨rfl, rfl, fun hs => { hs with sp := ?_ }⟩
  have h16 : s.sp.toNat ≤ 16 := hs.sp
  change (s.sp - 1).toNat ≤ 16
  bv_omega

theorem State.keeps_setFb {s : State} {fb : List (List Bool)}
    (h : displayShaped s.params s.fb → displayShaped s.params fb) : s.Keeps (s.setFb fb) :=
  ⟨rfl, rfl, fun hs => { hs with fb := h hs.fb }⟩

theorem State.keeps_writeBlock {s : State} {a : Nat} {bs : List Byte} (h : a + bs.length ≤ s.params.memSize) :
    s.Keeps (s.writeBlock a bs) :=
  ⟨rfl, rfl, fun hs => { hs with mem := State.mem_wf_writeBlock hs.mem h }⟩

/-- Under `EDGE` the wait state is free (R39). -/
theorem State.keeps_setWait {s : State} (h : s.params.keyWaitTrigger = .edge) (b : Bool) : s.Keeps (s.setWait b) :=
  ⟨rfl, rfl, fun hs => { hs with wait := fun hl => nomatch h.symm.trans hl }⟩

/-! ### What each instruction keeps -/

/-- An instruction behind a range check either passes it or raises `OutOfBounds` (R74). -/
theorem range_keeps {s u : State} {a n : Nat} {i : Instr}
    (h : s.inRange a n = true → s.Keeps u) :
    ∃ t, (if s.inRange a n then .next u else .next (s.raise .outOfBounds i) : Host.Outcome State Fault Refusal) =
      .next t ∧ s.Keeps t := by
  split
  · next hr => exact ⟨u, rfl, h hr⟩
  · exact ⟨_, rfl, s.keeps_raise (by decide) i⟩

theorem execRet_keeps {s : State} (hsp : s.sp.toNat ≤ 16) : ∃ t, execRet s = .next t ∧ s.Keeps t := by
  by_cases h0 : s.sp.toNat = 0
  · exact ⟨_, execRet_underflow h0, s.keeps_raise (by decide) _⟩
  · exact ⟨_, execRet_pop h0 (by omega), State.keeps_popReturn h0 _⟩

theorem execCall_keeps {s : State} (nnn : BitVec 12) (hsp : s.sp.toNat ≤ 16) :
    ∃ t, execCall nnn s = .next t ∧ s.Keeps t := by
  rcases hsp.lt_or_eq with h | h
  · exact ⟨_, execCall_push nnn h, (State.keeps_pushReturn h).trans (State.keeps_of_unguarded ..)⟩
  · exact ⟨_, execCall_overflow nnn h, s.keeps_raise (by decide) _⟩

theorem execDrw_keeps (s : State) (x y : RegName) (n : BitVec 4) : ∃ t, execDrw x y n s = .next t ∧ s.Keeps t :=
  range_keeps fun _ => (State.keeps_setFb fun h => displayShaped_drawCells h _).trans (State.keeps_of_unguarded ..)

theorem execLdBVx_keeps (s : State) (x : RegName) : ∃ t, execLdBVx x s = .next t ∧ s.Keeps t :=
  range_keeps fun hr => State.keeps_writeBlock (by simpa [decimalDigits] using State.inRange_iff.1 hr)

theorem execLdMemVx_keeps (s : State) (x : RegName) : ∃ t, execLdMemVx x s = .next t ∧ s.Keeps t := by
  refine range_keeps fun hr => (State.keeps_writeBlock ?_).trans (State.keeps_of_unguarded ..)
  rw [State.regsThrough_length]
  exact (State.inRange_iff.1 hr).resolve_left (Nat.succ_ne_zero _)

theorem execLdVxMem_keeps (s : State) (x : RegName) : ∃ t, execLdVxMem x s = .next t ∧ s.Keeps t :=
  range_keeps fun _ => s.keeps_of_unguarded ..

theorem execSkp_keeps (s : State) (x : RegName) : ∃ t, execSkp x s = .next t ∧ s.Keeps t := by
  unfold execSkp
  split
  · exact ⟨_, rfl, s.keeps_raise (by decide) _⟩
  · exact ⟨_, rfl, s.keeps_skipIf _⟩

theorem execSknp_keeps (s : State) (x : RegName) : ∃ t, execSknp x s = .next t ∧ s.Keeps t := by
  unfold execSknp
  split
  · exact ⟨_, rfl, s.keeps_raise (by decide) _⟩
  · exact ⟨_, rfl, s.keeps_skipIf _⟩

theorem keyWaitLevel_keeps (s : State) (x : RegName) : s.Keeps (keyWaitLevel x s) := by
  unfold keyWaitLevel
  split <;> exact s.keeps_of_unguarded ..

theorem keyWaitEdge_keeps {s : State} (h : s.params.keyWaitTrigger = .edge) (x : RegName) :
    s.Keeps (keyWaitEdge x s) := by
  unfold keyWaitEdge
  split
  · split
    · next k _ =>
      have hreg : s.Keeps (s.setReg x (keyByte k)) := s.keeps_of_unguarded ..
      exact hreg.trans (State.keeps_setWait (s := s.setReg x (keyByte k)) h false)
    · exact s.keeps_of_unguarded ..
  · exact (State.keeps_setWait h true).trans (State.keeps_of_unguarded ..)

theorem execLdVxK_keeps (s : State) (x : RegName) : ∃ t, execLdVxK x s = .next t ∧ s.Keeps t := by
  unfold execLdVxK
  split
  · exact ⟨_, rfl, keyWaitLevel_keeps s x⟩
  · next h => exact ⟨_, rfl, keyWaitEdge_keeps h x⟩

/-- With `sp` on the stack every instruction completes and keeps the invariant; `sp` is what shuts out the stop of
log entry 5. -/
theorem exec_keeps {s : State} (hsp : s.sp.toNat ≤ 16) : ∀ i : Instr, ∃ t, exec i s = .next t ∧ s.Keeps t
  | .cls => ⟨_, rfl, State.keeps_setFb fun _ => displayShaped_blank _⟩
  | .ret => execRet_keeps hsp
  | .call nnn => execCall_keeps nnn hsp
  | .drw x y n => execDrw_keeps s x y n
  | .skp x => execSkp_keeps s x
  | .sknp x => execSknp_keeps s x
  | .ldVxK x => execLdVxK_keeps s x
  | .ldBVx x => execLdBVx_keeps s x
  | .ldMemVx x => execLdMemVx_keeps s x
  | .ldVxMem x => execLdVxMem_keeps s x
  | .seByte _ _ | .sneByte _ _ | .seReg _ _ | .sneReg _ _ => ⟨_, rfl, s.keeps_skipIf _⟩
  | .orReg _ _ | .andReg _ _ | .xorReg _ _ => ⟨_, rfl, s.keeps_setLogic _ _⟩
  | .jp _ | .jpV0 _ | .ldByte _ _ | .addByte _ _ | .ldReg _ _ | .addReg _ _ | .subReg _ _ | .shr _ _ | .subnReg _ _
  | .shl _ _ | .ldI _ | .rnd _ _ | .ldVxDt _ | .ldDtVx _ | .ldStVx _ | .addIVx _ | .ldFVx _ =>
    ⟨_, rfl, s.keeps_of_unguarded ..⟩

/-- With `sp` on the stack every step completes and keeps the invariant, in any mode (R140 to R145). -/
theorem step_keeps {s : State} (hsp : s.sp.toNat ≤ 16) : ∃ t, step s = .next t ∧ s.Keeps t := by
  cases hv : s.fault.valid with
  | true => exact ⟨s, step_of_faulted hv, .refl s⟩
  | false =>
    cases hf : s.fetchable with
    | false => exact ⟨_, step_of_not_fetchable hv hf, s.keeps_latch (by decide) _ _⟩
    | true =>
      have hadv : s.Keeps s.advance := s.keeps_of_unguarded ..
      cases hd : decode s.fetchWord with
      | none => exact ⟨_, step_of_invalid hv hf hd, hadv.trans (State.keeps_latch _ (by decide) _ _)⟩
      | some i =>
        obtain ⟨t, he, hk⟩ := exec_keeps (s := s.advance) hsp i
        exact ⟨t, (step_of_decoded hv hf hd).trans he, hadv.trans hk⟩

/-! ### The breakpoint set (R317) -/

theorem mem_insertAddr {a b : Word} : ∀ {bp : List Word}, b ∈ insertAddr a bp ↔ b = a ∨ b ∈ bp
  | [] => by simp [insertAddr]
  | c :: bp => by
    unfold insertAddr
    split
    · exact List.mem_cons
    · split
      · next hac => simp [hac]
      · rw [List.mem_cons, mem_insertAddr, List.mem_cons, or_left_comm]

theorem risingAddrs_insertAddr {a : Word} : ∀ {bp : List Word}, risingAddrs bp → risingAddrs (insertAddr a bp)
  | [], _ => List.pairwise_singleton _ _
  | b :: bp, h => by
    obtain ⟨hb, hbp⟩ := List.pairwise_cons.1 h
    unfold insertAddr
    split
    · next hab =>
      refine List.pairwise_cons.2 ⟨fun c hc => ?_, h⟩
      rcases List.mem_cons.1 hc with rfl | hc
      · exact hab
      · exact hab.trans (hb c hc)
    · split
      · exact h
      · next hab hne =>
        have hlt : b.toNat < a.toNat := by bv_omega
        refine List.pairwise_cons.2 ⟨fun c hc => ?_, risingAddrs_insertAddr hbp⟩
        rcases mem_insertAddr.1 hc with rfl | hc
        · exact hlt
        · exact hb c hc

/-! ### What each command keeps (R6) -/

theorem State.Inv.resetUnit {s : State} (h : s.Inv) : s.resetUnit.Inv where
  params := h.params
  mem := h.mem
  sp := Nat.zero_le _
  fb := displayShaped_blank _
  bp := List.Pairwise.nil
  mode := by simp
  fault := .inl rfl
  wait := fun _ => ⟨rfl, rfl⟩

theorem State.Inv.setBp {s : State} (h : s.Inv) {bp : List Word} (hbp : risingAddrs bp) : (s.setBp bp).Inv :=
  { h with bp := hbp }

/-- A key event is recorded under `EDGE` only (R39, R314). -/
theorem State.Inv.setKeyBit {s : State} (h : s.Inv) (k : KeyName) (b : Bool) : (s.setKeyBit k b).Inv :=
  { h with
    wait := fun hl => by
      have hl' : s.params.keyWaitTrigger = .level := hl
      simpa [State.setKeyBit, hl'] using h.wait hl' }

/-- The answer `o` to a command given in the state `s` is a response and a state that meets the invariant, with
the parameters of `s`. -/
def AnswersWithInv (s : State) (o : Host.Outcome (Response × State) Fault Refusal) : Prop :=
  ∃ r t, o = .next (r, t) ∧ t.Inv ∧ t.params = s.params

theorem State.Inv.answersSelf {s : State} (h : s.Inv) (r : Response) : AnswersWithInv s (.next (r, s)) :=
  ⟨r, s, rfl, h, rfl⟩

/-- An image that fits the program region ends inside memory (R7, R382). -/
theorem commandLoad_answers {s : State} (h : s.Inv) (image : List Byte) :
    AnswersWithInv s (.next (commandLoad image s)) := by
  unfold commandLoad
  split
  · exact h.answersSelf _
  · next hlen =>
    have hentry : s.params.entry + 2 ≤ s.params.memSize := by
      have hp := h.params
      simp only [Params.wellFormed, Bool.and_eq_true, decide_eq_true_eq] at hp
      omega
    have hfit : s.params.entry + image.length ≤ s.params.memSize := by
      unfold Params.progCapacity at hlen
      omega
    exact ⟨_, _, rfl, (State.keeps_writeBlock hfit).inv_of_inv h, rfl⟩

theorem commandSetKey_answers {s : State} (h : s.Inv) (index : Nat) (pressed : Bool) :
    AnswersWithInv s (.next (commandSetKey index pressed s)) := by
  unfold commandSetKey
  split
  · exact ⟨_, _, rfl, h.setKeyBit _ _, rfl⟩
  · exact h.answersSelf _

theorem commandDisassemble_answers {s : State} (h : s.Inv) (addr : Word) :
    AnswersWithInv s (.next (commandDisassemble addr s)) := by
  unfold commandDisassemble
  split <;> exact h.answersSelf _

theorem commandDumpMemory_answers {s : State} (h : s.Inv) (lo hi : Nat) :
    AnswersWithInv s (.next (commandDumpMemory lo hi s)) := by
  unfold commandDumpMemory
  split <;> exact h.answersSelf _

theorem commandStep_answers {s : State} (h : s.Inv) : AnswersWithInv s (commandStep s) := by
  obtain ⟨t, hstep, hk⟩ := step_keeps h.sp
  exact ⟨_, t, by rw [commandStep, hstep], hk.inv_of_inv h, hk.params⟩

/-- The step runs in the mode Stepping and the command halts after it, so the invariant in any mode is enough
(R321). -/
theorem commandStepInstruction_answers {s : State} (h : s.Inv) : AnswersWithInv s (commandStepInstruction s) := by
  obtain ⟨t, hstep, hk⟩ := step_keeps (s := s.setMode .stepping) h.sp
  exact ⟨_, t.setMode .halted, by rw [commandStepInstruction, hstep],
    hk.inv (State.invAnyMode_setMode.2 h.anyMode), hk.params⟩

/-- A slice is steps from states of the invariant, and where it stops early it halts (R319). -/
theorem runSliceSteps_answers (n : Nat) : ∀ {s : State}, s.Inv → AnswersWithInv s (runSliceSteps n s) := by
  induction n with
  | zero => exact fun h => h.answersSelf _
  | succ n ih =>
    intro s h
    obtain ⟨t, hstep, hk⟩ := step_keeps h.sp
    have ht : t.Inv := hk.inv_of_inv h
    rw [runSliceSteps, hstep]
    dsimp only
    split
    · exact ⟨_, _, rfl, ht.anyMode, hk.params⟩
    · split
      · exact ⟨_, _, rfl, ht.anyMode, hk.params⟩
      · obtain ⟨r, u, hrun, hu, hp⟩ := ih ht
        exact ⟨r, u, hrun, hu, hp.trans hk.params⟩

theorem commandRunSlice_answers {s : State} (h : s.Inv) (budget : Nat) :
    AnswersWithInv s (commandRunSlice budget s) := by
  unfold commandRunSlice
  split
  · exact runSliceSteps_answers budget h
  · exact h.answersSelf _
  · exact h.answersSelf _

/-- Every command of R6 answers and keeps the invariant and the parameters. -/
theorem command_answers {s : State} (h : s.Inv) : ∀ c : Command, AnswersWithInv s (command c s)
  | .reset => ⟨_, _, rfl, h.resetUnit, rfl⟩
  | .load image => commandLoad_answers h image
  | .stepOnce => commandStep_answers h
  | .tick => ⟨_, _, rfl, (s.keeps_of_unguarded ..).inv_of_inv h, rfl⟩
  | .setKey index pressed => commandSetKey_answers h index pressed
  | .addBp _ => ⟨_, _, rfl, h.setBp (risingAddrs_insertAddr h.bp), rfl⟩
  | .removeBp _ => ⟨_, _, rfl, h.setBp (h.bp.filter _), rfl⟩
  | .run => ⟨_, _, rfl, h.setMode (by decide), rfl⟩
  | .runSlice budget => commandRunSlice_answers h budget
  | .halt => ⟨_, _, rfl, h.setMode (by decide), rfl⟩
  | .stepInstruction => commandStepInstruction_answers h
  | .disassemble addr => commandDisassemble_answers h addr
  | .dumpMemory lo hi => commandDumpMemory_answers h lo hi
  | .readFb | .readSound | .dumpRegisters => h.answersSelf _

/-- Settles O16: by induction on the list, since each command answers one response in a state that meets the
invariant with the parameters it was given (`command_answers`). -/
theorem everyCommandSequenceKeepsTheInvariant : Obligations.EveryCommandSequenceKeepsTheInvariant := by
  unfold Obligations.EveryCommandSequenceKeepsTheInvariant
  intro cs
  induction cs with
  | nil => exact fun s h => ⟨[], s, rfl, rfl, h, rfl⟩
  | cons c cs ih =>
    intro s h
    obtain ⟨r, t, hc, ht, hp⟩ := command_answers h c
    obtain ⟨rs, u, hcs, hlen, hu, hp'⟩ := ih t ht
    exact ⟨r :: rs, u, by simp only [commands, hc, hcs], by simp [hlen], hu, hp'.trans hp⟩

end Sys2Proof.Machine
end

section
/-! The invariant at reset and across a step, the stop past the stack, and what each instruction may write: its
registers, the stack and the devices (spec/10_state.md R30 to R45). -/

namespace Sys2Proof.Machine

/-! ### The invariant (R35, R37, R39, R41, R42, R45) -/

/-- Settles O15: with `sp` on the stack a step completes and loses no clause of the invariant (`step_keeps`). -/
theorem stepKeepsTheInvariant : Obligations.StepKeepsTheInvariant := by
  unfold Obligations.StepKeepsTheInvariant
  intro s t hs h
  obtain ⟨u, hu, hk⟩ := step_keeps hs.sp
  obtain rfl : u = t := Host.Outcome.next.inj (hu.symm.trans h)
  exact hk.inv_of_inv hs

/-- Construction meets the invariant whatever the parameters are. -/
theorem State.construct_inv {p : Params} (hp : p.wellFormed = true) : (State.construct p).Inv where
  params := hp
  mem := State.construct_mem_wf p
  sp := Nat.zero_le _
  fb := displayShaped_blank p
  bp := List.Pairwise.nil
  mode := by simp [State.construct]
  fault := .inl rfl
  wait := fun _ => ⟨rfl, rfl⟩

/-- Settles O14: reset is construction with the conventional parameters, which are well formed. -/
theorem resetMeetsTheInvariant : Obligations.ResetMeetsTheInvariant := by
  unfold Obligations.ResetMeetsTheInvariant
  exact State.construct_inv (by decide)

/-! ### The stop past the stack (log entry 5) -/

theorem execCall_pastStack {s : State} (nnn : BitVec 12) (h : 16 < s.sp.toNat) :
    execCall nnn s = .fault .noSuchStackEntry := by
  unfold execCall
  rw [if_neg (by unfold stackDepth; omega), dif_neg (by omega)]

theorem execRet_pastStack {s : State} (h : 16 < s.sp.toNat) : execRet s = .fault .noSuchStackEntry := by
  unfold execRet
  rw [if_neg (by omega), dif_neg (by omega)]

/-- Settles O13: neither `S[sp]` nor `S[sp - 1]` exists. -/
theorem stackPointerPastTheStackStops : Obligations.StackPointerPastTheStackStops := by
  unfold Obligations.StackPointerPastTheStackStops
  exact fun _ nnn h => ⟨execCall_pastStack nnn h, execRet_pastStack h⟩

/-! ### The updates an instruction may answer with -/

/-- `InstrEffect s i t`: `t` is `s` after an update the instruction `i` may make. Any instruction may raise a fault,
move `pc`, or write the registers `mayWriteReg` lists for it; every other update belongs to the instructions it
stands under. The values written are left open. -/
inductive InstrEffect (s : State) : Instr → State → Prop
  | raise (i : Instr) (k : FaultKind) : InstrEffect s i (s.raise k i)
  | setPc (i : Instr) (a : Word) : InstrEffect s i (s.setPc a)
  | setV (i : Instr) (v : Vector Byte 16)
      (hv : ∀ r, mayWriteReg s.params i r = false → ({ s with v := v } : State).reg r = s.reg r) :
      InstrEffect s i { s with v := v }
  | cls (fb : List (List Bool)) : InstrEffect s .cls (s.setFb fb)
  | ret (k : Fin 16) : InstrEffect s .ret (s.popReturn k)
  | call (nnn : BitVec 12) (hk : s.sp.toNat < 16) (a : Word) :
      InstrEffect s (.call nnn) ((s.pushReturn ⟨s.sp.toNat, hk⟩).setPc a)
  | ldI (nnn : BitVec 12) (a : Word) : InstrEffect s (.ldI nnn) (s.setI a)
  | addIVx (x : RegName) (a : Word) : InstrEffect s (.addIVx x) (s.setI a)
  | ldFVx (x : RegName) (a : Word) : InstrEffect s (.ldFVx x) (s.setI a)
  | rnd (x : RegName) (kk b : Byte) : InstrEffect s (.rnd x kk) (s.afterDraw.setReg x b)
  | drw (x y : RegName) (n : BitVec 4) (fb : List (List Bool)) (b : Byte) :
      InstrEffect s (.drw x y n) ((s.setFb fb).setReg vf b)
  | waitDone (x : RegName) (b : Byte) : InstrEffect s (.ldVxK x) ((s.setReg x b).setWait false)
  | waitArmed (x : RegName) : InstrEffect s (.ldVxK x) (s.setWait true).reexecute
  | ldDtVx (x : RegName) (b : Byte) : InstrEffect s (.ldDtVx x) (s.setDt b)
  | ldStVx (x : RegName) (b : Byte) : InstrEffect s (.ldStVx x) (s.setSt b)
  | ldBVx (x : RegName) (a : Nat) (bs : List Byte) : InstrEffect s (.ldBVx x) (s.writeBlock a bs)
  | ldMemVx (x : RegName) (a : Nat) (bs : List Byte) (n : Nat) :
      InstrEffect s (.ldMemVx x) ((s.writeBlock a bs).setI (indexAfterBlock s.params s.i n))
  | ldVxMem (x : RegName) (a n : Nat) :
      InstrEffect s (.ldVxMem x) ((s.loadRegsThrough x a).setI (indexAfterBlock s.params s.i n))

namespace InstrEffect

variable {s t u : State} {i : Instr}

theorem of_next (hu : InstrEffect s i u)
    (h : (.next u : Host.Outcome State Fault Refusal) = .next t) : InstrEffect s i t :=
  Host.Outcome.next.inj h ▸ hu

theorem skipIf (i : Instr) : ∀ c : Bool, InstrEffect s i (s.skipIf c)
  | true => .setPc i (s.pc + 2)
  | false => .setPc i s.pc

theorem setReg {x : RegName} (hx : mayWriteReg s.params i x = true) (b : Byte) : InstrEffect s i (s.setReg x b) := by
  refine .setV i (s.v.set x.val b) fun r hr => s.reg_setReg_of_ne b ?_
  rintro rfl
  simp [hx] at hr

theorem setResultFlag {x : RegName} (hx : mayWriteReg s.params i x = true) (hvf : mayWriteReg s.params i vf = true)
    (b c : Byte) : InstrEffect s i (s.setResultFlag x b c) := by
  refine .setV i ((s.v.set x.val b).set 15 c) fun r hr => (s.reg_setResultFlag x r b c).trans ?_
  rw [if_neg, if_neg]
  · rintro rfl
    simp [hx] at hr
  · rintro rfl
    simp [hvf] at hr

theorem setLogic {x : RegName} (hx : mayWriteReg s.params i x = true)
    (hvf : s.params.vfResetOnLogic = true → mayWriteReg s.params i vf = true) (b : Byte) :
    InstrEffect s i (s.setLogic x b) := by
  unfold State.setLogic
  split
  · next hp => exact setResultFlag hx (hvf hp) b 0
  · exact setReg hx b

/-- An instruction behind a range check makes its update or raises `OutOfBounds` (R74). -/
theorem of_range {a n : Nat} (hu : InstrEffect s i u)
    (h : (if s.inRange a n then Host.Outcome.next u else .next (s.raise .outOfBounds i)) =
      (.next t : Host.Outcome State Fault Refusal)) : InstrEffect s i t := by
  obtain ⟨-, rfl⟩ | ⟨-, rfl⟩ := range_cases h
  · exact hu
  · exact .raise i _

theorem of_execRet (h : execRet s = .next t) : InstrEffect s .ret t := by
  obtain ⟨-, rfl⟩ | ⟨-, -, rfl⟩ := execRet_cases h
  · exact .raise ..
  · exact .ret _

theorem of_execCall {nnn : BitVec 12} (h : execCall nnn s = .next t) : InstrEffect s (.call nnn) t := by
  obtain ⟨-, rfl⟩ | ⟨hk, rfl⟩ := execCall_cases h
  · exact .raise ..
  · exact .call nnn hk _

theorem of_execSkp {x : RegName} (h : execSkp x s = .next t) : InstrEffect s (.skp x) t := by
  obtain ⟨-, rfl⟩ | ⟨k, -, rfl⟩ := execSkp_cases h
  · exact .raise ..
  · exact .skipIf _ _

theorem of_execSknp {x : RegName} (h : execSknp x s = .next t) : InstrEffect s (.sknp x) t := by
  obtain ⟨-, rfl⟩ | ⟨k, -, rfl⟩ := execSknp_cases h
  · exact .raise ..
  · exact .skipIf _ _

theorem of_execLdVxK {x : RegName} (h : execLdVxK x s = .next t) : InstrEffect s (.ldVxK x) t := by
  obtain ⟨k, rfl⟩ | ⟨k, rfl⟩ | rfl | rfl := execLdVxK_cases h
  · exact .setReg (by simp [mayWriteReg]) _
  · exact .waitDone x _
  · exact .setPc _ _
  · exact .waitArmed x

end InstrEffect

/-- Every next state an instruction answers is the state after one of its own updates (R145). -/
theorem exec_effect {s t : State} : ∀ {i : Instr}, exec i s = .next t → InstrEffect s i t
  | .cls, h => .of_next (.cls _) h
  | .ret, h => .of_execRet h
  | .call _, h => .of_execCall h
  | .jp _, h | .jpV0 _, h => .of_next (.setPc _ _) h
  | .seByte _ _, h | .sneByte _ _, h | .seReg _ _, h | .sneReg _ _, h => .of_next (.skipIf _ _) h
  | .skp _, h => .of_execSkp h
  | .sknp _, h => .of_execSknp h
  | .ldByte _ _, h | .addByte _ _, h | .ldReg _ _, h | .ldVxDt _, h => .of_next (.setReg (by simp [mayWriteReg]) _) h
  | .orReg _ _, h | .andReg _ _, h | .xorReg _ _, h =>
    .of_next (.setLogic (by simp [mayWriteReg]) (fun hp => by simp [mayWriteReg, hp, vf]) _) h
  | .addReg _ _, h | .subReg _ _, h | .subnReg _ _, h | .shr _ _, h | .shl _ _, h =>
    .of_next (.setResultFlag (by simp [mayWriteReg]) (by simp [mayWriteReg, vf]) _ _) h
  | .rnd x kk, h => .of_next (.rnd x kk _) h
  | .ldI nnn, h => .of_next (.ldI nnn _) h
  | .addIVx x, h => .of_next (.addIVx x _) h
  | .ldFVx x, h => .of_next (.ldFVx x _) h
  | .drw x y n, h => .of_range (.drw x y n _ _) h
  | .ldVxK _, h => .of_execLdVxK h
  | .ldDtVx x, h => .of_next (.ldDtVx x _) h
  | .ldStVx x, h => .of_next (.ldStVx x _) h
  | .ldBVx x, h => .of_range (.ldBVx x _ _) h
  | .ldMemVx x, h => .of_range (.ldMemVx x _ _ _) h
  | .ldVxMem x, h => .of_range (.ldVxMem x _ _) h

/-! ### Registers (R31) -/

/-- Settles O26: by the updates an instruction may answer with; those outside `setV` that write a register write
VF, the named destination, or `V[0]` to `V[x]`. -/
theorem registersChangeOnlyWhereNamed : Obligations.RegistersChangeOnlyWhereNamed := by
  unfold Obligations.RegistersChangeOnlyWhereNamed
  intro i s t h r hr
  cases exec_effect h with
  | setV _ _ hv => exact hv r hr
  | rnd x kk b => exact s.afterDraw.reg_setReg_of_ne b (of_decide_eq_false hr)
  | drw x y n fb b => exact (s.setFb fb).reg_setReg_of_ne b (of_decide_eq_false hr)
  | waitDone x b => exact s.reg_setReg_of_ne b (of_decide_eq_false hr)
  | ldVxMem x a n => exact (s.reg_loadRegsThrough x r a).trans (if_neg (of_decide_eq_false hr))
  | _ => simp

/-! ### The call stack (R34, R35) -/

/-- Settles O33: `RET` moves `sp` only, `CALL` moves it and writes `S[sp]`, and no other update touches either. -/
theorem stackIsWrittenOnlyByCall : Obligations.StackIsWrittenOnlyByCall := by
  unfold Obligations.StackIsWrittenOnlyByCall
  intro i s t h
  cases exec_effect h with
  | ret k => exact ⟨by simp [State.stackEntry], fun _ => .inl rfl⟩
  | call nnn hk a =>
    refine ⟨fun k hne => ⟨⟨nnn, rfl⟩, ?_⟩, fun _ => .inr ⟨nnn, rfl⟩⟩
    by_contra hsp
    exact hne ((s.stackEntry_pushReturn _ k).trans (if_neg fun hk' => hsp (congrArg Fin.val hk')))
  | _ => simp [State.stackEntry]

/-! ### The devices (R32, R36 to R43) -/

section Devices

variable {s t : State} {i : Instr}

theorem exec_fb (h : exec i s = .next t) (hne : t.fb ≠ s.fb) : i = .cls ∨ ∃ x y n, i = .drw x y n := by
  cases exec_effect h with
  | cls fb => exact .inl rfl
  | drw x y n fb b => exact .inr ⟨x, y, n, rfl⟩
  | _ => simp at hne

theorem exec_dt (h : exec i s = .next t) (hne : t.dt ≠ s.dt) : ∃ x, i = .ldDtVx x := by
  cases exec_effect h with
  | ldDtVx x b => exact ⟨x, rfl⟩
  | _ => simp at hne

theorem exec_st (h : exec i s = .next t) (hne : t.st ≠ s.st) : ∃ x, i = .ldStVx x := by
  cases exec_effect h with
  | ldStVx x b => exact ⟨x, rfl⟩
  | _ => simp at hne

/-- Without `LOADSTORE_I_INCREMENT` a block move leaves `I` (R204, R205). -/
theorem loadStoreIIncrement_of_ne (p : Params) (a : Word) (n : Nat) (h : indexAfterBlock p a n ≠ a) :
    p.loadStoreIIncrement = true := by
  by_contra hp
  exact h (if_neg hp)

theorem exec_i (h : exec i s = .next t) (hne : t.i ≠ s.i) :
    (∃ nnn, i = .ldI nnn) ∨ (∃ x, i = .addIVx x) ∨ (∃ x, i = .ldFVx x) ∨
      (s.params.loadStoreIIncrement = true ∧ ((∃ x, i = .ldMemVx x) ∨ ∃ x, i = .ldVxMem x)) := by
  cases exec_effect h with
  | ldI nnn a => exact .inl ⟨nnn, rfl⟩
  | addIVx x a => exact .inr (.inl ⟨x, rfl⟩)
  | ldFVx x a => exact .inr (.inr (.inl ⟨x, rfl⟩))
  | ldMemVx x a bs n =>
    exact .inr (.inr (.inr ⟨loadStoreIIncrement_of_ne s.params s.i n hne, .inl ⟨x, rfl⟩⟩))
  | ldVxMem x a n =>
    exact .inr (.inr (.inr ⟨loadStoreIIncrement_of_ne s.params s.i n hne, .inr ⟨x, rfl⟩⟩))
  | _ => simp at hne

theorem exec_wait (h : exec i s = .next t) (hne : t.waitArmed ≠ s.waitArmed ∨ t.keyEvents ≠ s.keyEvents) :
    ∃ x, i = .ldVxK x := by
  cases exec_effect h with
  | waitDone x b => exact ⟨x, rfl⟩
  | waitArmed x => exact ⟨x, rfl⟩
  | _ => simp at hne

theorem exec_rngDraws (h : exec i s = .next t) (hne : t.rngDraws ≠ s.rngDraws) : ∃ x kk, i = .rnd x kk := by
  cases exec_effect h with
  | rnd x kk b => exact ⟨x, kk, rfl⟩
  | _ => simp at hne

/-- No update of an instruction touches what only commands set (R38, R40, R41), or the parameters. -/
theorem exec_key_bp_mode_params (h : exec i s = .next t) :
    t.key = s.key ∧ t.bp = s.bp ∧ t.mode = s.mode ∧ t.params = s.params := by
  cases exec_effect h <;> simp

end Devices

/-- Settles O44: device by device, by the updates an instruction may answer with. -/
theorem eachDeviceHasItsOwnInstructions : Obligations.EachDeviceHasItsOwnInstructions := by
  unfold Obligations.EachDeviceHasItsOwnInstructions
  exact fun i s t h => ⟨exec_fb h, exec_dt h, exec_st h, exec_i h, exec_wait h, exec_rngDraws h,
    exec_key_bp_mode_params h⟩

end Sys2Proof.Machine
end

section
/-! One byte of memory, the fetch, and the frame of memory over all instructions (spec/20_memory.md R72 to R78, R82,
spec/40_execution_cycle.md R143). -/

namespace Sys2Proof.Machine

/-! ### One byte (R72, R73, R78) -/

theorem State.memRead_of_lt {s : State} {a : Nat} (h : a < s.params.memSize) : s.memRead a = some (s.byteAt a) :=
  if_pos h

theorem State.memRead_of_le {s : State} {a : Nat} (h : s.params.memSize ≤ a) : s.memRead a = none :=
  if_neg h.not_gt

/-- A write inside memory is a block write of one byte. -/
theorem State.memWrite_of_lt {s : State} {a : Nat} (h : a < s.params.memSize) (b : Byte) :
    s.memWrite a b = some (s.writeBlock a [b]) :=
  if_pos h

theorem State.memWrite_of_le {s : State} {a : Nat} (h : s.params.memSize ≤ a) (b : Byte) : s.memWrite a b = none :=
  if_neg h.not_gt

/-- A read depends on memory at its own address and on the parameters only. -/
theorem State.memRead_congr {s t : State} {c : Nat} (hp : t.params = s.params) (hc : t.byteAt c = s.byteAt c) :
    t.memRead c = s.memRead c := by
  simp only [State.memRead, hp, hc]

/-- Settles O40: inside memory the write is a block of one byte, and the laws of block writes give every clause. -/
theorem byteReadsAndWrites : Obligations.ByteReadsAndWrites := by
  unfold Obligations.ByteReadsAndWrites
  refine fun s a b hm => ⟨fun ha => ?_, fun ha => ⟨State.memRead_of_le ha, State.memWrite_of_le ha b⟩⟩
  have hfit : a + [b].length ≤ s.params.memSize := ha
  have hget := State.byteAt_writeBlock hm hfit
  refine ⟨⟨_, State.memRead_of_lt ha⟩, s.writeBlock a [b], State.memWrite_of_lt ha b, rfl,
    State.mem_wf_writeBlock hm hfit, ?_, fun c hc => State.memRead_congr rfl ?_⟩
  · rw [State.memRead_of_lt (s := s.writeBlock a [b]) ha, hget, if_pos ⟨le_rfl, Nat.lt_succ_self a⟩,
      Nat.sub_self, List.getD_cons_zero]
  · rw [hget, if_neg (by simp only [List.length_singleton]; omega)]

/-! ### Fetch (R75, R143) -/

/-- The fetch advance as arithmetic on numbers, reduced to the width of `pc` (R143). -/
theorem State.advance_eq (s : State) : s.advance = { s with pc := BitVec.ofNat 16 (s.pc.toNat + 2) } := by
  have hpc : s.pc + 2 = BitVec.ofNat 16 (s.pc.toNat + 2) := by simp [BitVec.ofNat_add]
  rw [State.advance, hpc, State.setPc]

/-- Settles O7: `fetchWord` joins the two bytes, the first the more significant, and `step_of_decoded` is the rest. -/
theorem stepRunsTheDecodedInstruction : Obligations.StepRunsTheDecodedInstruction := by
  unfold Obligations.StepRunsTheDecodedInstruction
  intro s i hv hf hd
  rw [step_of_decoded hv (State.fetchable_iff.2 hf) hd, State.advance_eq]

/-! ### What each instruction stores (R82) -/

theorem State.byteAt_congr {s t : State} (hp : t.params = s.params) (hm : t.mem = s.mem) (a : Nat) :
    t.byteAt a = s.byteAt a := by
  simp only [State.byteAt, hp, hm]

theorem exec_mem {s t : State} {i : Instr} (h : exec i s = .next t) (hne : t.mem ≠ s.mem) :
    (∃ x, i = .ldBVx x) ∨ ∃ x, i = .ldMemVx x := by
  cases exec_effect h with
  | ldBVx x a bs => exact .inl ⟨x, rfl⟩
  | ldMemVx x a bs n => exact .inr ⟨x, rfl⟩
  | _ => simp at hne

/-- Outside the three bytes from `I`, `LD B, Vx` leaves memory as it was, whether it stores or faults (R203). -/
theorem execLdBVx_byteAt {s t : State} {x : RegName} (hm : Memory.wf s.params s.mem = true)
    (h : execLdBVx x s = .next t) {c : Nat} (hc : ¬ (s.i.toNat ≤ c ∧ c < s.i.toNat + 3)) :
    t.byteAt c = s.byteAt c := by
  obtain ⟨hr, rfl⟩ | ⟨-, rfl⟩ := range_cases h
  · have hfit : s.i.toNat + 3 ≤ s.params.memSize := by simpa using State.inRange_iff.1 hr
    exact (State.byteAt_writeBlock hm hfit c).trans (if_neg hc)
  · exact s.raise_byteAt _ _ c

/-- Outside the `x + 1` bytes from `I`, `LD [I], Vx` leaves memory as it was, whether it stores or faults (R204). -/
theorem execLdMemVx_byteAt {s t : State} {x : RegName} (hm : Memory.wf s.params s.mem = true)
    (h : execLdMemVx x s = .next t) {c : Nat} (hc : ¬ (s.i.toNat ≤ c ∧ c < s.i.toNat + (x.val + 1))) :
    t.byteAt c = s.byteAt c := by
  obtain ⟨hr, rfl⟩ | ⟨-, rfl⟩ := range_cases h
  · have hlen := s.regsThrough_length x
    have hfit : s.i.toNat + (s.regsThrough x).length ≤ s.params.memSize := by
      rw [hlen]
      simpa using State.inRange_iff.1 hr
    rw [State.setI_byteAt, State.byteAt_writeBlock hm hfit, hlen, if_neg hc]
  · exact s.raise_byteAt _ _ c

/-- Settles O39: an instruction that changes memory is `LD B, Vx` or `LD [I], Vx` (`exec_mem`), and each of the two
stores only in its own block. -/
theorem memoryChangesOnlyWhereStored : Obligations.MemoryChangesOnlyWhereStored := by
  unfold Obligations.MemoryChangesOnlyWhereStored
  intro i s t hm h a ha
  by_cases hmem : t.mem = s.mem
  · obtain ⟨-, -, -, hp⟩ := exec_key_bp_mode_params h
    exact State.byteAt_congr hp hmem a
  · obtain ⟨x, rfl⟩ | ⟨x, rfl⟩ := exec_mem h hmem
    · exact execLdBVx_byteAt hm h (of_decide_eq_false ha)
    · exact execLdMemVx_byteAt hm h (of_decide_eq_false ha)

end Sys2Proof.Machine
end

section
/-! The decode ROM and the encoder undo each other, and the ROM is the table of matches and masks
(spec/30_encoding.md R100 to R107, R112). -/

namespace Sys2Proof

/-! ### Decoding an encoded instruction (R103, R112) -/

theorem decode_encode : ∀ i : Instr, decode (encode i) = some i
  | .cls | .ret => rfl
  | .jp _ | .call _ | .ldI _ | .jpV0 _ | .seByte _ _ | .sneByte _ _ | .ldByte _ _ | .addByte _ _ | .rnd _ _
  | .seReg _ _ | .sneReg _ _ | .drw _ _ _ => by simp [encode, decode]
  | .ldReg _ _ | .orReg _ _ | .andReg _ _ | .xorReg _ _ | .addReg _ _ | .subReg _ _ | .shr _ _ | .subnReg _ _
  | .shl _ _ => by simp [encode, decode, decodeFamily8]
  | .skp _ | .sknp _ => by simp [encode, decode, decodeFamilyE]
  | .ldVxDt _ | .ldVxK _ | .ldDtVx _ | .ldStVx _ | .addIVx _ | .ldFVx _ | .ldBVx _ | .ldMemVx _ | .ldVxMem _ => by
    simp [encode, decode, decodeFamilyF]

/-- The byte decoder reads the two bytes of a word and leaves the bytes after them (R100, R107). -/
theorem decodeBytes_bytesOfWord (w : Word) (rest : List Byte) :
    decodeBytes (bytesOfWord w ++ rest) = (decode w).map fun i => (i, rest) := by
  simp [decodeBytes, bytesOfWord]

/-- Settles O1: the fields of each packed word are the operands it was packed from (`decode_encode`), and the two
bytes of a word make the word again. -/
theorem decodeReadsBackEveryInstruction : Obligations.DecodeReadsBackEveryInstruction := by
  unfold Obligations.DecodeReadsBackEveryInstruction
  intro i rest _
  exact ⟨decode_encode i, by rw [decodeBytes_bytesOfWord, decode_encode, Option.map_some]⟩

/-! ### Encoding a decoded word (R103, R112) -/

theorem packNNN_of_opField {w : Word} {op : Nat} (hop : (opField w).toNat = op) :
    packNNN (BitVec.ofNat 4 op) (nnnField w) = w := by
  rw [← hop, BitVec.ofNat_toNat, BitVec.setWidth_eq, packNNN_fields]

theorem packXKK_of_opField {w : Word} {op : Nat} (hop : (opField w).toNat = op) :
    packXKK (BitVec.ofNat 4 op) (xField w) (kkField w) = w := by
  rw [← hop, BitVec.ofNat_toNat, BitVec.setWidth_eq, packXKK_fields]

theorem packXYN_of_opField {w : Word} {op : Nat} (hop : (opField w).toNat = op) :
    packXYN (BitVec.ofNat 4 op) (xField w) (yField w) (nField w) = w := by
  rw [← hop, BitVec.ofNat_toNat, BitVec.setWidth_eq, packXYN_fields]

theorem encode_of_decodeFamily8 {x y : RegName} {n : BitVec 4} {i : Instr} (h : decodeFamily8 x y n = some i) :
    encode i = packXYN 0x8#4 x y n := by
  unfold decodeFamily8 at h
  split at h <;> cases h
  all_goals next hn => exact congrArg (packXYN _ x y) (BitVec.eq_of_toNat_eq hn.symm)

theorem encode_of_decodeFamilyE {x : RegName} {kk : Byte} {i : Instr} (h : decodeFamilyE x kk = some i) :
    encode i = packXKK 0xE#4 x kk := by
  unfold decodeFamilyE at h
  split at h <;> cases h
  all_goals next hkk => exact congrArg (packXKK _ x) (BitVec.eq_of_toNat_eq hkk.symm)

theorem encode_of_decodeFamilyF {x : RegName} {kk : Byte} {i : Instr} (h : decodeFamilyF x kk = some i) :
    encode i = packXKK 0xF#4 x kk := by
  unfold decodeFamilyF at h
  split at h <;> cases h
  all_goals next hkk => exact congrArg (packXKK _ x) (BitVec.eq_of_toNat_eq hkk.symm)

/-- Family by family, arm `h_k` being family `k - 1`: the instruction's fields are read from `w`, and packing a word's
own fields gives the word. -/
theorem encode_of_decode {w : Word} {i : Instr} (h : decode w = some i) : encode i = w := by
  unfold decode at h
  split at h
  case h_1 =>
    split_ifs at h with hcls hret <;> cases h
    · exact hcls.symm
    · exact hret.symm
  case h_2 hop | h_3 hop | h_11 hop | h_12 hop => cases h; exact packNNN_of_opField hop
  case h_4 hop | h_5 hop | h_7 hop | h_8 hop | h_13 hop => cases h; exact packXKK_of_opField hop
  case h_6 hop | h_10 hop =>
    obtain ⟨hn, hi⟩ := Option.ite_none_right_eq_some.1 h
    cases hi
    rw [encode, ← hn]
    exact packXYN_of_opField hop
  case h_9 hop => exact (encode_of_decodeFamily8 h).trans (packXYN_of_opField hop)
  case h_14 hop => cases h; exact packXYN_of_opField hop
  case h_15 hop => exact (encode_of_decodeFamilyE h).trans (packXKK_of_opField hop)
  case h_16 =>
    have hop : (opField w).toNat = 0xF := by
      have hlt := (opField w).isLt
      grind
    exact (encode_of_decodeFamilyF h).trans (packXKK_of_opField hop)

theorem decode_eq_some_iff {w : Word} {i : Instr} : decode w = some i ↔ encode i = w :=
  ⟨encode_of_decode, fun h => h ▸ decode_encode i⟩

/-- Settles O2, family by family (`encode_of_decode`). -/
theorem encodeGivesBackTheDecodedWord : Obligations.EncodeGivesBackTheDecodedWord := by
  unfold Obligations.EncodeGivesBackTheDecodedWord
  exact fun _ _ => encode_of_decode

/-! ### Packed words under the masks of the table (R102, R103) -/

theorem packXYN_and_F000 (op : BitVec 4) (x y : RegName) (n : BitVec 4) :
    packXYN op x y n &&& 0xF000#16 = packXYN op 0 0 0#4 := by
  change (op ++ (BitVec.ofFin x ++ (BitVec.ofFin y ++ n))) &&&
    (BitVec.allOnes 4 ++ (0#4 ++ (0#4 ++ 0#4))) = op ++ (0#4 ++ (0#4 ++ 0#4))
  simp only [BitVec.and_append, BitVec.and_allOnes, BitVec.and_zero]

theorem packXYN_and_F00F (op : BitVec 4) (x y : RegName) (n : BitVec 4) :
    packXYN op x y n &&& 0xF00F#16 = packXYN op 0 0 n := by
  change (op ++ (BitVec.ofFin x ++ (BitVec.ofFin y ++ n))) &&&
    (BitVec.allOnes 4 ++ (0#4 ++ (0#4 ++ BitVec.allOnes 4))) = op ++ (0#4 ++ (0#4 ++ n))
  simp only [BitVec.and_append, BitVec.and_allOnes, BitVec.and_zero]

theorem packXKK_and_F0FF (op : BitVec 4) (x : RegName) (kk : Byte) :
    packXKK op x kk &&& 0xF0FF#16 = packXKK op 0 kk := by
  change (op ++ (BitVec.ofFin x ++ kk)) &&& (BitVec.allOnes 4 ++ (0#4 ++ BitVec.allOnes 8)) = op ++ (0#4 ++ kk)
  simp only [BitVec.and_append, BitVec.and_allOnes, BitVec.and_zero]

/-- Under the mask `0xF000` only the family is left, in whichever format the word is packed. -/
theorem and_F000 (w : Word) : w &&& 0xF000#16 = packXYN (opField w) 0 0 0#4 := by
  rw [← packXYN_and_F000 (opField w) (xField w) (yField w) (nField w), packXYN_fields]

theorem and_F00F (w : Word) : w &&& 0xF00F#16 = packXYN (opField w) 0 0 (nField w) := by
  rw [← packXYN_and_F00F (opField w) (xField w) (yField w) (nField w), packXYN_fields]

theorem and_F0FF (w : Word) : w &&& 0xF0FF#16 = packXKK (opField w) 0 (kkField w) := by
  rw [← packXKK_and_F0FF (opField w) (xField w) (kkField w), packXKK_fields]

theorem packNNN_and_F000 (op : BitVec 4) (nnn : BitVec 12) :
    packNNN op nnn &&& 0xF000#16 = packXYN op 0 0 0#4 := by
  rw [and_F000, opField_packNNN]

theorem packXKK_and_F000 (op : BitVec 4) (x : RegName) (kk : Byte) :
    packXKK op x kk &&& 0xF000#16 = packXYN op 0 0 0#4 := by
  rw [and_F000, opField_packXKK]

section Match

variable {w : Word} {op : BitVec 4}

theorem opField_of_and_F000 (h : w &&& 0xF000#16 = packXYN op 0 0 0#4) : opField w = op := by
  rw [and_F000] at h
  simpa using congrArg opField h

theorem packNNN_of_and_F000 (h : w &&& 0xF000#16 = packXYN op 0 0 0#4) : packNNN op (nnnField w) = w := by
  rw [← opField_of_and_F000 h, packNNN_fields]

theorem packXKK_of_and_F000 (h : w &&& 0xF000#16 = packXYN op 0 0 0#4) :
    packXKK op (xField w) (kkField w) = w := by
  rw [← opField_of_and_F000 h, packXKK_fields]

theorem packXYN_of_and_F000 (h : w &&& 0xF000#16 = packXYN op 0 0 0#4) :
    packXYN op (xField w) (yField w) (nField w) = w := by
  rw [← opField_of_and_F000 h, packXYN_fields]

theorem packXYN_of_and_F00F {n : BitVec 4} (h : w &&& 0xF00F#16 = packXYN op 0 0 n) :
    packXYN op (xField w) (yField w) n = w := by
  rw [and_F00F] at h
  have hop : opField w = op := by simpa using congrArg opField h
  have hn : nField w = n := by simpa using congrArg nField h
  rw [← hop, ← hn, packXYN_fields]

theorem packXKK_of_and_F0FF {kk : Byte} (h : w &&& 0xF0FF#16 = packXKK op 0 kk) :
    packXKK op (xField w) kk = w := by
  rw [and_F0FF] at h
  have hop : opField w = op := by simpa using congrArg opField h
  have hkk : kkField w = kk := by simpa using congrArg kkField h
  rw [← hop, ← hkk, packXKK_fields]

theorem eq_of_and_FFFF {m : Word} (h : w &&& 0xFFFF#16 = m) : m = w :=
  h.symm.trans BitVec.and_allOnes

end Match

/-! ### The decoder is the table (R103) -/

/-- The instruction of each row of the table, in the table's order, with its operands read from `w`. -/
def rowReadings (w : Word) : List Instr :=
  [.cls, .ret, .jp (nnnField w), .call (nnnField w), .seByte (xField w) (kkField w),
   .sneByte (xField w) (kkField w), .seReg (xField w) (yField w), .ldByte (xField w) (kkField w),
   .addByte (xField w) (kkField w), .ldReg (xField w) (yField w), .orReg (xField w) (yField w),
   .andReg (xField w) (yField w), .xorReg (xField w) (yField w), .addReg (xField w) (yField w),
   .subReg (xField w) (yField w), .shr (xField w) (yField w), .subnReg (xField w) (yField w),
   .shl (xField w) (yField w), .sneReg (xField w) (yField w), .ldI (nnnField w), .jpV0 (nnnField w),
   .rnd (xField w) (kkField w), .drw (xField w) (yField w) (nField w), .skp (xField w), .sknp (xField w),
   .ldVxDt (xField w), .ldVxK (xField w), .ldDtVx (xField w), .ldStVx (xField w), .addIVx (xField w),
   .ldFVx (xField w), .ldBVx (xField w), .ldMemVx (xField w), .ldVxMem (xField w)]

theorem map_row_rowReadings (w : Word) : (rowReadings w).map Instr.row = List.range' 1 34 := rfl

/-- A word that matches a row is the encoding of that row's instruction with the word's own operands. -/
theorem encode_rowReadings (w : Word) :
    List.Forall₂ (fun row i => w &&& row.2 = row.1 → encode i = w) rom (rowReadings w) := by
  iterate 2 refine .cons (fun h => eq_of_and_FFFF h) ?_
  iterate 2 refine .cons (fun h => packNNN_of_and_F000 h) ?_
  iterate 2 refine .cons (fun h => packXKK_of_and_F000 h) ?_
  refine .cons (fun h => packXYN_of_and_F00F h) ?_
  iterate 2 refine .cons (fun h => packXKK_of_and_F000 h) ?_
  iterate 10 refine .cons (fun h => packXYN_of_and_F00F h) ?_
  iterate 2 refine .cons (fun h => packNNN_of_and_F000 h) ?_
  refine .cons (fun h => packXKK_of_and_F000 h) (.cons (fun h => packXYN_of_and_F000 h) ?_)
  iterate 11 refine .cons (fun h => packXKK_of_and_F0FF h) ?_
  exact .nil

theorem exists_encode_eq_of_match {w : Word} {k : Nat} {row : Word × Word} (hk : rom[k]? = some row)
    (hm : w &&& row.2 = row.1) : ∃ i, encode i = w ∧ i.row = k + 1 := by
  obtain ⟨hlt, rfl⟩ := List.getElem?_eq_some_iff.1 hk
  have hlt' : k < (rowReadings w).length := hlt
  refine ⟨(rowReadings w)[k], (encode_rowReadings w).get hlt hlt' hm, ?_⟩
  have hrow := List.getElem_of_eq (map_row_rowReadings w) (i := k) (by simpa using hlt')
  simpa [Nat.add_comm] using hrow

/-- The encoding of an instruction matches the instruction's row. -/
theorem encode_matches_row : ∀ i : Instr, ∃ k row, i.row = k + 1 ∧ rom[k]? = some row ∧ encode i &&& row.2 = row.1
  | .cls | .ret => ⟨_, _, rfl, rfl, rfl⟩
  | .jp _ | .call _ | .ldI _ | .jpV0 _ => ⟨_, _, rfl, rfl, packNNN_and_F000 ..⟩
  | .seByte _ _ | .sneByte _ _ | .ldByte _ _ | .addByte _ _ | .rnd _ _ => ⟨_, _, rfl, rfl, packXKK_and_F000 ..⟩
  | .drw _ _ _ => ⟨_, _, rfl, rfl, packXYN_and_F000 ..⟩
  | .seReg _ _ | .ldReg _ _ | .orReg _ _ | .andReg _ _ | .xorReg _ _ | .addReg _ _ | .subReg _ _ | .shr _ _
  | .subnReg _ _ | .shl _ _ | .sneReg _ _ => ⟨_, _, rfl, rfl, packXYN_and_F00F ..⟩
  | .skp _ | .sknp _ | .ldVxDt _ | .ldVxK _ | .ldDtVx _ | .ldStVx _ | .addIVx _ | .ldFVx _ | .ldBVx _ | .ldMemVx _
  | .ldVxMem _ => ⟨_, _, rfl, rfl, packXKK_and_F0FF ..⟩

theorem match_iff_decode {w : Word} {k : Nat} {row : Word × Word} (hk : rom[k]? = some row) :
    w &&& row.2 = row.1 ↔ ∃ i, decode w = some i ∧ i.row = k + 1 := by
  constructor
  · intro hm
    obtain ⟨i, hi, hrow⟩ := exists_encode_eq_of_match hk hm
    exact ⟨i, decode_eq_some_iff.2 hi, hrow⟩
  · rintro ⟨i, hd, hrow⟩
    obtain ⟨k', row', hrow', hk', hm⟩ := encode_matches_row i
    obtain rfl : k' = k := by omega
    obtain rfl : row' = row := Option.some.inj (hk'.symm.trans hk)
    rwa [encode_of_decode hd] at hm

/-- Settles O3: the first clause is `match_iff_decode`; it gives the other two, since a word decodes to at most one
instruction and every instruction has a row. -/
theorem decodeIsTheTableOfMatchAndMask : Obligations.DecodeIsTheTableOfMatchAndMask := by
  unfold Obligations.DecodeIsTheTableOfMatchAndMask
  refine fun w => ⟨fun k row => match_iff_decode, fun j k rowJ rowK hj hk hmJ hmK => ?_, ?_, ?_⟩
  · obtain ⟨i, hi, hrowJ⟩ := (match_iff_decode hj).1 hmJ
    obtain ⟨i', hi', hrowK⟩ := (match_iff_decode hk).1 hmK
    obtain rfl : i = i' := Option.some.inj (hi.symm.trans hi')
    omega
  · intro hnone row hrow hm
    obtain ⟨k, hk⟩ := List.mem_iff_getElem?.1 hrow
    obtain ⟨i, hi, -⟩ := (match_iff_decode hk).1 hm
    exact nomatch hnone.symm.trans hi
  · intro hno
    refine Option.eq_none_iff_forall_ne_some.2 fun i hi => ?_
    obtain ⟨k, row, -, hk, hm⟩ := encode_matches_row i
    exact hno row (List.mem_of_getElem? hk) (encode_of_decode hi ▸ hm)

/-! ### The invalid words (R105) -/

theorem toNat_opField (w : Word) : (opField w).toNat = w.toNat / 0x1000 := by
  have hw := toNat_packNNN (opField w) (nnnField w)
  rw [packNNN_fields] at hw
  have hlt := (nnnField w).isLt
  omega

theorem toNat_nField (w : Word) : (nField w).toNat = w.toNat % 0x10 := by
  simp [nField]

theorem toNat_kkField (w : Word) : (kkField w).toNat = w.toNat % 0x100 := by
  simp [kkField]

theorem nField_eq_zero_iff {w : Word} : nField w = 0#4 ↔ (nField w).toNat = 0 := BitVec.toNat_inj.symm

theorem decodeFamily8_eq_none_iff {x y : RegName} {n : BitVec 4} :
    decodeFamily8 x y n = none ↔ n.toNat ∈ [0x8, 0x9, 0xA, 0xB, 0xC, 0xD, 0xF] := by
  unfold decodeFamily8
  split
  case h_10 =>
    have hlt := n.isLt
    simp only [true_iff, List.mem_cons, List.not_mem_nil, or_false]
    grind
  all_goals simp [*]

theorem decodeFamilyE_eq_none_iff {x : RegName} {kk : Byte} :
    decodeFamilyE x kk = none ↔ kk.toNat ∉ [0x9E, 0xA1] := by
  unfold decodeFamilyE
  split <;> simp_all

theorem decodeFamilyF_eq_none_iff {x : RegName} {kk : Byte} :
    decodeFamilyF x kk = none ↔ kk.toNat ∉ [0x07, 0x0A, 0x15, 0x18, 0x1E, 0x29, 0x33, 0x55, 0x65] := by
  unfold decodeFamilyF
  split <;> simp_all

/-- Settles O4: each family's own match says which of its words are invalid, and the other families have none. -/
theorem invalidWordsAreExactlyTheListed : Obligations.InvalidWordsAreExactlyTheListed := by
  unfold Obligations.InvalidWordsAreExactlyTheListed
  intro w
  rw [← toNat_opField, ← toNat_nField, ← toNat_kkField]
  unfold decode
  split
  case h_1 hop => simp [hop, ite_eq_iff]
  case h_6 hop | h_10 hop => simp [hop, nField_eq_zero_iff]
  case h_9 hop => simp [hop, decodeFamily8_eq_none_iff]
  case h_15 hop => simp [hop, decodeFamilyE_eq_none_iff]
  case h_16 =>
    have hop : (opField w).toNat = 0xF := by
      have hlt := (opField w).isLt
      grind
    simp [hop, decodeFamilyF_eq_none_iff]
  all_goals next hop => simp [hop]

/-- Settles O6: eleven fixed words, on which the decoder is evaluated. -/
theorem wordsOfTheSpecDecode : Obligations.WordsOfTheSpecDecode := by
  unfold Obligations.WordsOfTheSpecDecode
  decide

end Sys2Proof
end

section
/-! Re-encoding the text of a word (spec/30_encoding.md R109 to R112). -/

namespace Sys2Proof.Machine

/-- What is written element by element is read back element by element. -/
theorem mapM_map_of_inverse {α β : Type} {f : α → β} {g : β → Option α} (h : ∀ a, g (f a) = some a) (l : List α) :
    (l.map f).mapM g = some l := by
  induction l with
  | nil => rfl
  | cons a l ih => simp [h, ih]

theorem hexValue_hexDigit : ∀ d : BitVec 4, hexValue (hexDigit d) = some d := by decide

theorem mnemonicOfText_mnemonicText (m : Mnemonic) : mnemonicOfText (mnemonicText m) = some m := by
  cases m <;> decide

theorem operandOfChars_hexDigits (ds : List (BitVec 4)) :
    operandOfChars ('0' :: 'x' :: ds.map hexDigit) = operandOfDigits ds := by
  rw [operandOfChars, mapM_map_of_inverse hexValue_hexDigit, Option.bind_some]

theorem byte_of_digits (kk : Byte) : kk.extractLsb' 4 4 ++ kk.extractLsb' 0 4 = kk :=
  (BitVec.extractLsb'_append_extractLsb'_eq_extractLsb' rfl).trans BitVec.extractLsb'_eq_self

theorem addr_of_digits (nnn : BitVec 12) :
    nnn.extractLsb' 8 4 ++ (nnn.extractLsb' 4 4 ++ nnn.extractLsb' 0 4) = nnn := by
  have hlow : nnn.extractLsb' 4 4 ++ nnn.extractLsb' 0 4 = nnn.extractLsb' 0 8 :=
    BitVec.extractLsb'_append_extractLsb'_eq_extractLsb' rfl
  rw [hlow]
  exact (BitVec.extractLsb'_append_extractLsb'_eq_extractLsb' rfl).trans BitVec.extractLsb'_eq_self

theorem operandOfChars_operandChars : ∀ o : Operand, operandOfChars (operandChars o) = some o
  | .reg r => by simp [operandChars, operandOfChars, hexValue_hexDigit]
  | .nibble _ => operandOfChars_hexDigits [_]
  | .byte kk => (operandOfChars_hexDigits [_, _]).trans (congrArg (some ∘ Operand.byte) (byte_of_digits kk))
  | .addr nnn => (operandOfChars_hexDigits [_, _, _]).trans (congrArg (some ∘ Operand.addr) (addr_of_digits nnn))
  | .word w => (operandOfChars_hexDigits [_, _, _, _]).trans (congrArg (some ∘ Operand.word) (packXYN_fields w))
  | .kwI | .kwDT | .kwST | .kwK | .kwF | .kwB | .kwMemI => rfl

theorem operandOfChars_operandText (o : Operand) : operandOfChars (operandText o).toList = some o := by
  rw [operandText, String.toList_ofList, operandOfChars_operandChars]

theorem reencode_spellAsm (a : Asm) : reencode (spellAsm a) = assemble a := by
  have hos : (a.operands.map operandText).mapM (fun t => operandOfChars t.toList) = some a.operands :=
    mapM_map_of_inverse (g := fun t : String => operandOfChars t.toList) operandOfChars_operandText a.operands
  simp only [reencode, spellAsm, mnemonicOfText_mnemonicText, hos]

open Laws.Reassembles in
theorem reassembles (i : Instr) : Laws.Reassembles.Statement i := by
  cases i
  exacts [cls, ret, jp _, call _, seByte _ _, sneByte _ _, seReg _ _, ldByte _ _, addByte _ _, ldReg _ _, orReg _ _,
    andReg _ _, xorReg _ _, addReg _ _, subReg _ _, shr _ _, subnReg _ _, shl _ _, sneReg _ _, ldI _, jpV0 _, rnd _ _,
    drw _ _ _, skp _, sknp _, ldVxDt _, ldVxK _, ldDtVx _, ldStVx _, addIVx _, ldFVx _, ldBVx _, ldMemVx _, ldVxMem _]

theorem assemble_asmOfInstr (i : Instr) : assemble (asmOfInstr i) = some (encode i) :=
  (reassembles i).2

/-- A word without a row is spelled with `DW` and read back raw (R111). -/
theorem assemble_asmOfWord (w : Word) : assemble (asmOfWord w) = some w := by
  unfold asmOfWord
  split
  · next i hd => rw [assemble_asmOfInstr, encode_of_decode hd]
  · rfl

/-- Settles O5: a spelling is read back as the term it spells (`reencode_spellAsm`), and the term of a word
assembles to the word. -/
theorem reencodingTheTextGivesTheWord : Obligations.ReencodingTheTextGivesTheWord := by
  unfold Obligations.ReencodingTheTextGivesTheWord
  exact fun w => ⟨assemble_asmOfWord w, (reencode_spellAsm _).trans (assemble_asmOfWord w)⟩

end Sys2Proof.Machine
end

section
/-! Steps that execute nothing, faults that are precise, and the latch that only `RESET` clears
(spec/40_execution_cycle.md R141 to R147, spec/60_exceptions.md R300 to R306). -/

namespace Sys2Proof.Machine

/-! ### The step faults before an instruction runs (R142, R144) -/

/-- Settles O9: the step is the latch of `step_of_not_fetchable`. -/
theorem fetchOutOfBoundsFaults : Obligations.FetchOutOfBoundsFaults := by
  unfold Obligations.FetchOutOfBoundsFaults
  intro s hv hpc
  have hf : s.fetchable = false := decide_eq_false hpc.not_gt
  exact step_of_not_fetchable hv hf

/-- Settles O10: the step is the advance and the latch of `step_of_invalid`, and the next one begins latched. -/
theorem invalidWordFaults : Obligations.InvalidWordFaults := by
  unfold Obligations.InvalidWordFaults
  rintro s w hv hpc rfl hd
  refine ⟨_, step_of_invalid hv (State.fetchable_iff.2 hpc) hd, step_of_faulted rfl, ?_⟩
  rw [State.advance_eq]
  rfl

/-! ### What an instruction faults for (R74, R300) -/

theorem instrFault_ne_some_none (i : Instr) (s : State) : instrFault i s ≠ some .none := by
  cases i <;> simp [instrFault]

theorem not_lt_of_keyNamed_eq_some {b : Byte} {k : KeyName} (h : keyNamed b = some k) : ¬ 0x0F < b.toNat := by
  rw [← keyNamed_eq_none, h]
  exact Option.some_ne_none k

/-- An instruction behind a range check raises `OutOfBounds` exactly where the check fails (R74). -/
theorem range_fault {s t u : State} {a n : Nat} {i : Instr}
    (h : (if s.inRange a n then Host.Outcome.next u else .next (s.raise .outOfBounds i)) =
      (.next t : Host.Outcome State Fault Refusal))
    (hi : instrFault i s = if 0 < n ∧ s.params.memSize < a + n then some .outOfBounds else none)
    (hu : u.fault = s.fault) :
    (instrFault i s = none ∧ t.fault = s.fault) ∨ ∃ k, instrFault i s = some k ∧ t = s.raise k i := by
  have hr : ¬ (0 < n ∧ s.params.memSize < a + n) ↔ s.inRange a n = true := by
    rw [State.inRange_iff]
    omega
  obtain ⟨hin, rfl⟩ | ⟨hin, rfl⟩ := range_cases h
  · exact .inl ⟨hi.trans (if_neg (hr.2 hin)), hu⟩
  · exact .inr ⟨_, hi.trans (if_pos (by simpa [hin] using hr)), rfl⟩

/-- An instruction that answers either leaves the latch, or raises the fault the table gives it and does nothing
else (R147, R300). -/
theorem exec_fault {s t : State} : ∀ {i : Instr}, exec i s = .next t →
    (instrFault i s = none ∧ t.fault = s.fault) ∨ ∃ k, instrFault i s = some k ∧ t = s.raise k i
  | .ret, h => by
    obtain ⟨h0, rfl⟩ | ⟨h0, -, rfl⟩ := execRet_cases h
    · exact .inr ⟨_, if_pos h0, rfl⟩
    · exact .inl ⟨if_neg h0, rfl⟩
  | .call _, h => by
    obtain ⟨h16, rfl⟩ | ⟨hlt, rfl⟩ := execCall_cases h
    · exact .inr ⟨_, if_pos h16, rfl⟩
    · exact .inl ⟨if_neg hlt.ne, rfl⟩
  | .skp _, h => by
    obtain ⟨hk, rfl⟩ | ⟨k, hk, rfl⟩ := execSkp_cases h
    · exact .inr ⟨_, if_pos (keyNamed_eq_none.1 hk), rfl⟩
    · exact .inl ⟨if_neg (not_lt_of_keyNamed_eq_some hk), s.skipIf_fault _⟩
  | .sknp _, h => by
    obtain ⟨hk, rfl⟩ | ⟨k, hk, rfl⟩ := execSknp_cases h
    · exact .inr ⟨_, if_pos (keyNamed_eq_none.1 hk), rfl⟩
    · exact .inl ⟨if_neg (not_lt_of_keyNamed_eq_some hk), s.skipIf_fault _⟩
  | .drw _ _ _, h => range_fault h rfl rfl
  | .ldBVx _, h | .ldMemVx _, h | .ldVxMem _, h => range_fault h (by simp [instrFault]) rfl
  | .ldVxK _, h => by
    obtain ⟨k, rfl⟩ | ⟨k, rfl⟩ | rfl | rfl := execLdVxK_cases h <;> exact .inl ⟨rfl, rfl⟩
  | .seByte _ _, h | .sneByte _ _, h | .seReg _ _, h | .sneReg _ _, h => by
    cases h
    exact .inl ⟨rfl, s.skipIf_fault _⟩
  | .orReg _ _, h | .andReg _ _, h | .xorReg _ _, h => by
    cases h
    exact .inl ⟨rfl, s.setLogic_fault _ _⟩
  | .cls, h | .jp _, h | .jpV0 _, h | .ldByte _ _, h | .addByte _ _, h | .ldReg _ _, h | .addReg _ _, h
  | .subReg _ _, h | .shr _ _, h | .subnReg _ _, h | .shl _ _, h | .ldI _, h | .rnd _ _, h | .ldVxDt _, h
  | .ldDtVx _, h | .ldStVx _, h | .addIVx _, h | .ldFVx _, h => by
    cases h
    exact .inl ⟨rfl, rfl⟩

/-! ### Precise faults (R147, R302) -/

/-- What an instruction raises after the fetch advance records the instruction's own address and word (R143). -/
theorem State.raise_advance_of_decode {s : State} {i : Instr} (hd : decode s.fetchWord = some i) (k : FaultKind) :
    s.advance.raise k i = s.advance.latch k s.pc s.fetchWord := by
  rw [State.raise, State.advance_pc, advance_pc_sub_two, encode_of_decode hd]

/-- Past the fetch a fault is the advance and the latch, whether the word is invalid or its instruction faults. -/
theorem step_fault_of_fetchable {s t : State} (hv : s.fault.valid = false) (hf : s.fetchable = true)
    (h : step s = .next t) (ht : t.fault.valid = true) :
    ∃ k, k ≠ .none ∧ t = s.advance.latch k s.pc s.fetchWord := by
  cases hd : decode s.fetchWord with
  | none =>
    rw [step_of_invalid hv hf hd] at h
    exact ⟨_, by decide, (Host.Outcome.next.inj h).symm⟩
  | some i =>
    rw [step_of_decoded hv hf hd] at h
    obtain ⟨-, hsame⟩ | ⟨k, hk, rfl⟩ := exec_fault h
    · simp [hsame, hv] at ht
    · exact ⟨k, fun hnone => instrFault_ne_some_none i _ (hnone ▸ hk), State.raise_advance_of_decode hd k⟩

/-- Settles O11: a fetch fault is the latch alone, and any other fault the advance and the latch
(`step_fault_of_fetchable`). -/
theorem faultsArePrecise : Obligations.FaultsArePrecise := by
  unfold Obligations.FaultsArePrecise
  intro s t hv h ht
  cases hf : s.fetchable with
  | false =>
    rw [step_of_not_fetchable hv hf] at h
    cases h
    exact ⟨rfl, rfl, .inl ⟨not_lt.1 (of_decide_eq_false hf), rfl, rfl, rfl⟩⟩
  | true =>
    obtain ⟨k, hk, rfl⟩ := step_fault_of_fetchable hv hf h ht
    rw [State.advance_eq]
    exact ⟨rfl, rfl, .inr ⟨State.fetchable_iff.1 hf, rfl, rfl, hk⟩⟩

/-! ### The latch under every command (R141, R305) -/

section Latched

variable {s : State} (hv : s.fault.valid = true)
include hv

/-- `STEP` answers the latched error and changes nothing. -/
theorem commandStep_of_faulted : commandStep s = .next (.stepped (.engineError s.fault.kind), s) := by
  simp [commandStep, step_of_faulted hv, stepResponse, hv]

theorem commandStepInstruction_of_faulted :
    ∃ r, commandStepInstruction s = .next (r, s.setMode .halted) := by
  have hstep : step (s.setMode .stepping) = .next (s.setMode .stepping) := step_of_faulted hv
  rw [commandStepInstruction, hstep]
  exact ⟨_, rfl⟩

/-- From a latched state a slice stops at its first step at the latest, and changes at most `MODE` (R319). -/
theorem runSliceSteps_of_faulted : ∀ n, ∃ r m, runSliceSteps n s = .next (r, s.setMode m)
  | 0 => ⟨_, s.mode, rfl⟩
  | n + 1 => by
    rw [runSliceSteps, step_of_faulted hv]
    exact ⟨_, _, if_pos hv⟩

theorem commandRunSlice_of_faulted (n : Nat) : ∃ r m, commandRunSlice n s = .next (r, s.setMode m) := by
  unfold commandRunSlice
  split
  · exact runSliceSteps_of_faulted hv n
  · exact ⟨_, s.mode, rfl⟩
  · exact ⟨_, s.mode, rfl⟩

end Latched

theorem commandLoad_fault (image : List Byte) (s : State) : (commandLoad image s).2.fault = s.fault := by
  unfold commandLoad
  split <;> rfl

theorem commandSetKey_fault (index : Nat) (pressed : Bool) (s : State) :
    (commandSetKey index pressed s).2.fault = s.fault := by
  unfold commandSetKey
  split <;> rfl

theorem commandDisassemble_state (addr : Word) (s : State) : (commandDisassemble addr s).2 = s := by
  unfold commandDisassemble
  split <;> rfl

theorem commandDumpMemory_state (lo hi : Nat) (s : State) : (commandDumpMemory lo hi s).2 = s := by
  unfold commandDumpMemory
  split <;> rfl

/-- With a fault latched every command but `RESET` answers and leaves the latch (R305). -/
theorem command_fault_of_faulted {s : State} (hv : s.fault.valid = true) :
    ∀ {c : Command}, c ≠ .reset → ∃ r t, command c s = .next (r, t) ∧ t.fault = s.fault
  | .reset, hc => absurd rfl hc
  | .load image, _ => ⟨_, _, rfl, commandLoad_fault image s⟩
  | .stepOnce, _ => ⟨_, _, commandStep_of_faulted hv, rfl⟩
  | .setKey index pressed, _ => ⟨_, _, rfl, commandSetKey_fault index pressed s⟩
  | .runSlice n, _ => by
    obtain ⟨r, m, h⟩ := commandRunSlice_of_faulted hv n
    exact ⟨r, _, h, rfl⟩
  | .stepInstruction, _ => by
    obtain ⟨r, h⟩ := commandStepInstruction_of_faulted hv
    exact ⟨r, _, h, rfl⟩
  | .disassemble addr, _ => ⟨_, _, rfl, congrArg State.fault (commandDisassemble_state addr s)⟩
  | .dumpMemory lo hi, _ => ⟨_, _, rfl, congrArg State.fault (commandDumpMemory_state lo hi s)⟩
  | .tick, _ | .readFb, _ | .readSound, _ | .addBp _, _ | .removeBp _, _ | .run, _ | .halt, _
  | .dumpRegisters, _ => ⟨_, _, rfl, rfl⟩

/-- Settles O8: a latched step is the identity (`step_of_faulted`), every command but `RESET` leaves the latch
(`command_fault_of_faulted`), and `RESET` builds the unit anew. -/
theorem latchedFaultStaysUntilReset : Obligations.LatchedFaultStaysUntilReset := by
  unfold Obligations.LatchedFaultStaysUntilReset
  refine fun s hv => ⟨step_of_faulted hv, commandStep_of_faulted hv, fun c r t hc h => ?_, _, _, rfl, rfl⟩
  obtain ⟨r', t', h', hfault⟩ := command_fault_of_faulted hv hc
  cases h.symm.trans h'
  exact hfault

end Sys2Proof.Machine
end

section
/-! Jumps, calls, returns and skips: the whole next state of each (spec/41_control_flow.md R150 to R157). -/

namespace Sys2Proof.Machine

/-! ### Jumps (R151, R157) -/

theorem zext16_eq_ofNat (nnn : BitVec 12) : zext16 nnn = BitVec.ofNat 16 nnn.toNat :=
  (BitVec.ofNat_toNat 16 nnn).symm

theorem jumpOffsetReg_of_v0 {p : Params} (h : p.jumpOffsetReg = .v0) (nnn : BitVec 12) : jumpOffsetReg p nnn = 0 := by
  rw [jumpOffsetReg, h]

/-- The register field of an address is its value without the low byte (R157). -/
theorem jumpOffsetReg_of_vx {p : Params} (h : p.jumpOffsetReg = .vx) (nnn : BitVec 12) :
    jumpOffsetReg p nnn = Fin.ofNat 16 (nnn.toNat / 0x100) := by
  rw [jumpOffsetReg, h]
  apply Fin.ext
  simp [Nat.shiftRight_eq_div_pow]

theorem execJpV0_of_reg {s : State} {nnn : BitVec 12} {r : RegName} (h : jumpOffsetReg s.params nnn = r) :
    execJpV0 nnn s = .next { s with pc := BitVec.ofNat 16 (nnn.toNat + (s.reg r).toNat) } := by
  rw [execJpV0, h, jumpTarget, State.setPc]

/-- Settles O27: `zext16` is the address as a number, and `JUMP_OFFSET_REG` names the register added. -/
theorem jumpsSetThePc : Obligations.JumpsSetThePc := by
  unfold Obligations.JumpsSetThePc
  refine fun s nnn => ⟨⟨decode_eq_some_iff.2 (wordNNN_eq (by decide) nnn).symm, ?_⟩,
    decode_eq_some_iff.2 (wordNNN_eq (by decide) nnn).symm, execJpV0_of_reg ?_⟩
  · rw [← zext16_eq_ofNat]
    rfl
  · cases hp : s.params.jumpOffsetReg with
    | v0 => exact jumpOffsetReg_of_v0 hp nnn
    | vx => exact jumpOffsetReg_of_vx hp nnn

/-! ### Calls and returns (R150, R152) -/

theorem State.raise_faultTaken {s : State} {i : Instr} {w : Word} (h : encode i = w) (kind : FaultKind) :
    FaultTaken kind w s (s.raise kind i) := by
  rw [FaultTaken, ← h]
  rfl

/-- Settles O28: the push of `execCall_push` and the raise of `execCall_overflow`. -/
theorem callPushesTheReturnAddress : Obligations.CallPushesTheReturnAddress := by
  unfold Obligations.CallPushesTheReturnAddress
  intro s nnn
  have hw : encode (.call nnn) = wordNNN 0x2 nnn := (wordNNN_eq (by decide) nnn).symm
  refine ⟨decode_eq_some_iff.2 hw, fun hsp => ⟨_, execCall_push nnn hsp, ?_, fun k => ?_, fun a => rfl⟩,
    fun hsp => ⟨_, execCall_overflow nnn hsp, State.raise_faultTaken hw _⟩⟩
  · have hinc : BitVec.ofNat 8 (s.sp.toNat + 1) = s.sp + 1 := by simp [BitVec.ofNat_add]
    rw [hinc, ← zext16_eq_ofNat]
    rfl
  · exact (s.stackEntry_pushReturn _ k).trans (if_congr Fin.ext_iff rfl rfl)

/-- With `k + 1` live entries `RET` pops entry `k` (R150). -/
theorem execRet_of_sp_eq {s : State} {k : Fin 16} (h : s.sp.toNat = k.val + 1) :
    execRet s = .next (s.popReturn k) := by
  have hk : s.sp.toNat - 1 = k.val := by omega
  rw [execRet_pop (by omega) (hk ▸ k.isLt)]
  simp only [hk]

/-- Settles O29: the pop of `execRet_of_sp_eq` and the raise of `execRet_underflow`. -/
theorem retPopsTheReturnAddress : Obligations.RetPopsTheReturnAddress := by
  unfold Obligations.RetPopsTheReturnAddress
  refine fun s => ⟨decode_encode .ret, fun k hk => ?_,
    fun hsp => ⟨_, execRet_underflow hsp, State.raise_faultTaken rfl _⟩⟩
  have hdec : BitVec.ofNat 8 k.val = s.sp - 1 := by bv_omega
  rw [hdec]
  exact execRet_of_sp_eq hk

/-- Popping the entry just pushed, from wherever the call went, restores `pc` and `sp` (R150, R152). -/
theorem State.popReturn_setPc_pushReturn (s : State) (k : Fin 16) (a : Word) :
    ((s.pushReturn k).setPc a).popReturn k = { s with stack := (s.pushReturn k).stack } := by
  have hpc : ((s.pushReturn k).setPc a).stackEntry k = s.pc :=
    (s.stackEntry_pushReturn k k).trans (if_pos rfl)
  have hsp : s.sp + 1 - 1 = s.sp := by simp
  rw [State.popReturn, hpc, State.setPc_sp, State.pushReturn_sp, hsp]
  rfl

/-- Settles O32: `CALL` leaves one live entry more, so `RET` pops the entry it pushed. -/
theorem callThenRetComesBack : Obligations.CallThenRetComesBack := by
  unfold Obligations.CallThenRetComesBack
  intro s nnn hsp
  have hret : (s.sp + 1).toNat = s.sp.toNat + 1 := by bv_omega
  refine ⟨_, _, execCall_push nnn hsp, execRet_of_sp_eq (k := ⟨s.sp.toNat, hsp⟩) hret, ?_, fun k hk => ?_⟩
  · exact State.popReturn_setPc_pushReturn s _ _
  · exact (s.stackEntry_pushReturn _ k).trans (if_neg fun h => hk (congrArg Fin.val h))

/-! ### Skips (R148, R153 to R156) -/

theorem State.skipIf_eq (s : State) (c : Prop) [Decidable c] :
    s.skipIf (decide c) = { s with pc := if c then BitVec.ofNat 16 (s.pc.toNat + 2) else s.pc } := by
  by_cases hc : c
  · rw [decide_eq_true hc, if_pos hc]
    exact s.advance_eq
  · rw [decide_eq_false hc, if_neg hc]
    rfl

theorem State.skipIf_not_eq (s : State) (c : Prop) [Decidable c] :
    s.skipIf (decide ¬c) = { s with pc := if c then s.pc else BitVec.ofNat 16 (s.pc.toNat + 2) } := by
  rw [State.skipIf_eq, ite_not]

/-- Settles O30: the skips of `State.skipIf_eq` and `State.skipIf_not_eq`. -/
theorem skipsOnAnImmediate : Obligations.SkipsOnAnImmediate := by
  unfold Obligations.SkipsOnAnImmediate
  exact fun s x kk =>
    ⟨⟨decode_eq_some_iff.2 (wordXKK_eq (by decide) x kk).symm, congrArg _ (s.skipIf_eq (s.reg x = kk))⟩,
      decode_eq_some_iff.2 (wordXKK_eq (by decide) x kk).symm, congrArg _ (s.skipIf_not_eq (s.reg x = kk))⟩

/-- In the families of `SE Vx, Vy` and `SNE Vx, Vy` only the nibble 0 is an instruction (R105). -/
theorem decode_wordXYN_eq_none {op : Nat} (hop : op = 0x5 ∨ op = 0x9) (x y : RegName) {n : BitVec 4} (hn : n ≠ 0) :
    decode (wordXYN op x y n) = none := by
  obtain rfl | rfl := hop <;> rw [wordXYN_eq (by decide)] <;> simpa [decode] using hn

/-- Settles O31: the skips of `State.skipIf_eq` and `State.skipIf_not_eq`; any other nibble is
`decode_wordXYN_eq_none`. -/
theorem skipsOnARegister : Obligations.SkipsOnARegister := by
  unfold Obligations.SkipsOnARegister
  exact fun s x y =>
    ⟨fun n hn => ⟨decode_wordXYN_eq_none (.inl rfl) x y hn, decode_wordXYN_eq_none (.inr rfl) x y hn⟩,
      ⟨decode_eq_some_iff.2 (wordXYN_eq (by decide) x y _).symm, congrArg _ (s.skipIf_eq (s.reg x = s.reg y))⟩,
      decode_eq_some_iff.2 (wordXYN_eq (by decide) x y _).symm, congrArg _ (s.skipIf_not_eq (s.reg x = s.reg y))⟩

end Sys2Proof.Machine
end

section
/-! Register loads, arithmetic, logic and random: what each result and flag is as a number, which registers each
write touches, and the instructions assembled from the two (spec/42_alu.md R170 to R182). -/

namespace Sys2Proof.Machine

/-! ### Results and flags as numbers (R171, R176 to R180) -/

theorem toNat_sum8 (a b : Byte) : (sum8 a b).toNat = (a.toNat + b.toNat) % 256 := BitVec.toNat_ofNat ..

theorem toNat_diff8 (a b : Byte) : ((diff8 a b).toNat : Int) = ((a.toNat : Int) - b.toNat) % 256 := by
  have hmod : 0 ≤ ((a.toNat : Int) - b.toNat) % 256 := Int.emod_nonneg _ (by decide)
  rw [diff8, BitVec.toNat_ofInt]
  exact Int.toNat_of_nonneg hmod

theorem toNat_half8 (v : Byte) : (half8 v).toNat = v.toNat / 2 := by
  rw [half8, BitVec.toNat_ushiftRight, Nat.shiftRight_eq_div_pow, Nat.pow_one]

theorem toNat_double8 (v : Byte) : (double8 v).toNat = v.toNat * 2 % 256 := by
  rw [double8, BitVec.toNat_shiftLeft, Nat.shiftLeft_eq, Nat.pow_one]

theorem boolByte_decide (c : Prop) [Decidable c] : boolByte (decide c) = if c then 1 else 0 := by
  simp only [boolByte, decide_eq_true_eq]

theorem carryFlag_eq (a b : Byte) : carryFlag a b = if 255 < a.toNat + b.toNat then 1 else 0 := boolByte_decide _

theorem notBorrowFlag_eq (a b : Byte) : notBorrowFlag a b = if b.toNat ≤ a.toNat then 1 else 0 := boolByte_decide _

theorem toNat_shiftRightFlag (v : Byte) : (shiftRightFlag v).toNat = v.toNat % 2 := by
  rw [shiftRightFlag, BitVec.toNat_and]
  exact Nat.and_one_is_mod _

/-- A byte shifted right by 7 is its bit 7 alone, so the mask of R180 changes nothing. -/
theorem toNat_shiftLeftFlag (v : Byte) : (shiftLeftFlag v).toNat = v.toNat / 128 := by
  have hbit : v.toNat / 128 < 2 := by have := v.isLt; omega
  have hshift : (v >>> 7).toNat = v.toNat / 128 := by rw [BitVec.toNat_ushiftRight, Nat.shiftRight_eq_div_pow]
  calc (shiftLeftFlag v).toNat = (v >>> 7).toNat % 2 := toNat_shiftRightFlag (v >>> 7)
    _ = v.toNat / 128 := by rw [hshift, Nat.mod_eq_of_lt hbit]

theorem maskedDraw_and_not (r kk : Byte) : maskedDraw r kk &&& ~~~kk = 0 := by
  rw [maskedDraw, BitVec.and_assoc, BitVec.and_not_self]
  exact BitVec.and_zero

/-! ### The registers each write touches (R182) -/

theorem State.onlyRegisters_setReg (s : State) (x : RegName) (b : Byte) :
    OnlyRegisters (fun r => r = x) s (s.setReg x b) :=
  ⟨rfl, fun _ hr => s.reg_setReg_of_ne b hr, fun _ => rfl⟩

/-- The flag is written last, so VF ends holding it, also as the destination; any other destination holds the
result. -/
theorem State.setResultFlag_writes (s : State) (x : RegName) (b c : Byte) :
    (x ≠ 15 → (s.setResultFlag x b c).reg x = b) ∧ (s.setResultFlag x b c).reg 15 = c ∧
      OnlyRegisters (fun r => r = x ∨ r = 15) s (s.setResultFlag x b c) := by
  have hreg := fun q => s.reg_setResultFlag x q b c
  refine ⟨fun hx => (hreg x).trans ((if_neg hx).trans (if_pos rfl)), (hreg 15).trans (if_pos rfl), rfl,
    fun r hr => ?_, fun _ => rfl⟩
  obtain ⟨hx, hvf⟩ := not_or.1 hr
  exact (hreg r).trans ((if_neg hvf).trans (if_neg hx))

/-- A logic result, and VF cleared after it when `VF_RESET_ON_LOGIC` holds (R173). -/
theorem State.setLogic_writes (s : State) (x : RegName) (b : Byte) :
    (s.setLogic x b).reg x = (if s.params.vfResetOnLogic = true ∧ x = 15 then 0 else b) ∧
      (s.params.vfResetOnLogic = true → (s.setLogic x b).reg 15 = 0) ∧
      OnlyRegisters (fun r => r = x ∨ (s.params.vfResetOnLogic = true ∧ r = 15)) s (s.setLogic x b) := by
  have hreg := fun q => s.reg_setLogic x q b
  refine ⟨(hreg x).trans (if_congr .rfl rfl (if_pos rfl)), fun hp => (hreg 15).trans (if_pos ⟨hp, rfl⟩), ?_,
    fun r hr => ?_, s.setLogic_byteAt x b⟩
  · unfold State.setLogic
    split <;> rfl
  · obtain ⟨hx, hvf⟩ := not_or.1 hr
    exact (hreg r).trans ((if_neg hvf).trans (if_neg hx))

/-! ### The instructions (R170 to R181) -/

/-- The words of family 8, written out as numbers (R102). -/
theorem decode_word8XYN {i : Instr} {x y : RegName} {n : BitVec 4} (h : encode i = packXYN 0x8 x y n) :
    decode (wordXYN 0x8 x y n) = some i :=
  decode_eq_some_iff.2 (h.trans (wordXYN_eq (by decide) x y n).symm)

/-- Settles O18: both loads are one register write. -/
theorem loadsIntoARegister : Obligations.LoadsIntoARegister := by
  unfold Obligations.LoadsIntoARegister
  exact fun s x y kk =>
    ⟨⟨decode_eq_some_iff.2 (wordXKK_eq (by decide) x kk).symm,
        _, rfl, s.reg_setReg_self x kk, s.onlyRegisters_setReg x kk⟩,
      decode_word8XYN rfl, _, rfl, s.reg_setReg_self x _, s.onlyRegisters_setReg x _⟩

/-- Settles O19: the one register written takes `sum8`. -/
theorem addImmediateWrapsWithoutFlag : Obligations.AddImmediateWrapsWithoutFlag := by
  unfold Obligations.AddImmediateWrapsWithoutFlag
  refine fun s x kk => ⟨decode_eq_some_iff.2 (wordXKK_eq (by decide) x kk).symm,
    s.setReg x (sum8 (s.reg x) kk), rfl, ?_, s.onlyRegisters_setReg x _⟩
  rw [State.reg_setReg_self, toNat_sum8]

/-- Settles O20: the three share the write of `State.setLogic_writes`. -/
theorem logicResultsAndFlagReset : Obligations.LogicResultsAndFlagReset := by
  unfold Obligations.LogicResultsAndFlagReset
  exact fun s x y =>
    ⟨⟨decode_word8XYN rfl, _, rfl, s.setLogic_writes x _⟩,
      ⟨decode_word8XYN rfl, _, rfl, s.setLogic_writes x _⟩,
      decode_word8XYN rfl, _, rfl, s.setLogic_writes x _⟩

/-- Settles O21: the result is `sum8`, the flag `carryFlag`. -/
theorem addSetsTheCarry : Obligations.AddSetsTheCarry := by
  unfold Obligations.AddSetsTheCarry
  intro s x y
  obtain ⟨hres, hflag, honly⟩ := s.setResultFlag_writes x (sum8 (s.reg x) (s.reg y)) (carryFlag (s.reg x) (s.reg y))
  exact ⟨decode_word8XYN rfl, _, rfl, fun hx => by rw [hres hx, toNat_sum8], hflag.trans (carryFlag_eq _ _), honly⟩

/-- Writing the difference of two bytes and its not-borrow flag (R177, R179): `SUB` and `SUBN` differ only in the
order of the operands. -/
theorem State.setResultFlag_diff8_writes (s : State) (x : RegName) (a b : Byte) :
    let t := s.setResultFlag x (diff8 a b) (notBorrowFlag a b)
    (x ≠ 15 → ((t.reg x).toNat : Int) = ((a.toNat : Int) - b.toNat) % 256) ∧
      t.reg 15 = (if b.toNat ≤ a.toNat then 1 else 0) ∧ OnlyRegisters (fun r => r = x ∨ r = 15) s t := by
  obtain ⟨hres, hflag, honly⟩ := s.setResultFlag_writes x (diff8 a b) (notBorrowFlag a b)
  exact ⟨fun hx => by rw [hres hx, toNat_diff8], hflag.trans (notBorrowFlag_eq a b), honly⟩

/-- Settles O22: the write of `State.setResultFlag_diff8_writes`, with the operands in either order. -/
theorem subtractionsSetNotBorrow : Obligations.SubtractionsSetNotBorrow := by
  unfold Obligations.SubtractionsSetNotBorrow
  exact fun s x y =>
    ⟨⟨decode_word8XYN rfl, _, rfl, s.setResultFlag_diff8_writes x (s.reg x) (s.reg y)⟩,
      decode_word8XYN rfl, _, rfl, s.setResultFlag_diff8_writes x (s.reg y) (s.reg x)⟩

/-- Settles O23: the result is `half8` of the operand `SHIFT_SOURCE` selects, the flag its `shiftRightFlag`. -/
theorem shiftRightHalves : Obligations.ShiftRightHalves := by
  unfold Obligations.ShiftRightHalves
  intro s x y v hv
  obtain rfl : v = s.shifted x y := hv
  obtain ⟨hres, hflag, honly⟩ := s.setResultFlag_writes x (half8 (s.shifted x y)) (shiftRightFlag (s.shifted x y))
  exact ⟨decode_word8XYN rfl, _, rfl, fun hx => by rw [hres hx, toNat_half8],
    by rw [hflag, toNat_shiftRightFlag], honly⟩

/-- Settles O24: the result is `double8` of the operand `SHIFT_SOURCE` selects, the flag its `shiftLeftFlag`. -/
theorem shiftLeftDoubles : Obligations.ShiftLeftDoubles := by
  unfold Obligations.ShiftLeftDoubles
  intro s x y v hv
  obtain rfl : v = s.shifted x y := hv
  obtain ⟨hres, hflag, honly⟩ := s.setResultFlag_writes x (double8 (s.shifted x y)) (shiftLeftFlag (s.shifted x y))
  exact ⟨decode_word8XYN rfl, _, rfl, fun hx => by rw [hres hx, toNat_double8],
    by rw [hflag, toNat_shiftLeftFlag], honly⟩

/-- Settles O25: the draw advances the counter and leaves the registers, one of which then takes the masked byte. -/
theorem randomIsTheMaskedDraw : Obligations.RandomIsTheMaskedDraw := by
  unfold Obligations.RandomIsTheMaskedDraw
  intro s x kk
  have hres := s.afterDraw.reg_setReg_self x (maskedDraw s.drawnByte kk)
  exact ⟨decode_eq_some_iff.2 (wordXKK_eq (by decide) x kk).symm, _, rfl, hres,
    (congrArg (· &&& ~~~kk) hres).trans (maskedDraw_and_not s.drawnByte kk), rfl,
    fun _ hr => s.afterDraw.reg_setReg_of_ne _ hr, fun _ => rfl⟩

end Sys2Proof.Machine
end

section
/-! The index register, the decimal digits, and the moves of registers to and from memory, each with its fault
(spec/43_index_memory.md R200 to R205). -/

namespace Sys2Proof.Machine

/-! ### The index register (R200 to R202) -/

theorem fontDigit_of_lowNibble {p : Params} (h : p.fontDigitMode = .lowNibble) (value : Byte) :
    fontDigit p value = value.toNat % 16 := by
  rw [fontDigit, h]
  exact (BitVec.toNat_and value 0x0F#8).trans (Nat.and_two_pow_sub_one_eq_mod value.toNat 4)

theorem fontDigit_of_full {p : Params} (h : p.fontDigitMode = .full) (value : Byte) :
    fontDigit p value = value.toNat := by
  rw [fontDigit, h]

theorem execLdFVx_of_digit {s : State} {x : RegName} {d : Nat} (h : fontDigit s.params (s.reg x) = d) :
    execLdFVx x s = .next { s with i := BitVec.ofNat 16 (s.params.fontBase + s.params.glyphBytes * d) } := by
  rw [execLdFVx, h, glyphAddress, State.setI]

/-- Settles O34: `zext16` is the address as a number, `ADD I, Vx` writes `indexSum`, and `FONT_DIGIT_MODE` selects the
digit of `LD F, Vx`. -/
theorem indexRegisterResults : Obligations.IndexRegisterResults := by
  unfold Obligations.IndexRegisterResults
  refine fun s x nnn => ⟨⟨decode_eq_some_iff.2 (wordNNN_eq (by decide) nnn).symm, ?_⟩,
    ⟨decode_eq_some_iff.2 (wordXKK_eq (by decide) x _).symm, rfl⟩,
    decode_eq_some_iff.2 (wordXKK_eq (by decide) x _).symm, execLdFVx_of_digit ?_⟩
  · rw [← zext16_eq_ofNat]
    rfl
  · cases hmode : s.params.fontDigitMode with
    | lowNibble => exact fontDigit_of_lowNibble hmode _
    | full => exact fontDigit_of_full hmode _

/-! ### A block at `I` inside memory or past it (R74, R76) -/

theorem State.inRange_of_le {s : State} {a n : Nat} (h : a + n ≤ s.params.memSize) : s.inRange a n = true :=
  State.inRange_iff.2 (.inr h)

/-- An access whose last byte is past memory raises `OutOfBounds` and does nothing else (R74, R147). -/
theorem range_faultTaken {s u : State} {a n : Nat} {i : Instr} {w : Word} (h : s.params.memSize < a + (n + 1))
    (hw : encode i = w) :
    ∃ t, (if s.inRange a (n + 1) then .next u else .next (s.raise .outOfBounds i) : Host.Outcome State Fault Refusal) =
      .next t ∧ FaultTaken .outOfBounds w s t := by
  have hout : ¬ s.inRange a (n + 1) = true := by
    rw [State.inRange_iff]
    omega
  exact ⟨_, if_neg hout, State.raise_faultTaken hw _⟩

theorem State.byteAt_writeBlock_add {s : State} (hm : Memory.wf s.params s.mem = true) {a : Nat} {bs : List Byte}
    (hfit : a + bs.length ≤ s.params.memSize) {k : Nat} (hk : k < bs.length) :
    (s.writeBlock a bs).byteAt (a + k) = bs.getD k 0 := by
  rw [State.byteAt_writeBlock hm hfit, if_pos (by omega), Nat.add_sub_cancel_left]

/-! ### The decimal digits (R203) -/

theorem toNat_byte_ofNat {n : Nat} (h : n < 2 ^ 8) : (BitVec.ofNat 8 n).toNat = n :=
  (BitVec.toNat_ofNat n 8).trans (Nat.mod_eq_of_lt h)

theorem toNat_decimalDigits (value : Byte) :
    ((decimalDigits value).getD 0 0).toNat = value.toNat / 100 ∧
      ((decimalDigits value).getD 1 0).toNat = value.toNat / 10 % 10 ∧
      ((decimalDigits value).getD 2 0).toNat = value.toNat % 10 := by
  have hlt := value.isLt
  exact ⟨toNat_byte_ofNat (by omega), toNat_byte_ofNat (by omega), toNat_byte_ofNat (by omega)⟩

/-- Settles O35: the block written is `decimalDigits`, and outside it memory is as before (`execLdBVx_byteAt`). -/
theorem decimalDigitsAreStored : Obligations.DecimalDigitsAreStored := by
  unfold Obligations.DecimalDigitsAreStored
  intro s x hm
  have hw : encode (.ldBVx x) = wordXKK 0xF x 0x33 := (wordXKK_eq (by decide) x _).symm
  refine ⟨decode_eq_some_iff.2 hw, fun hfit => ?_, fun hout => range_faultTaken hout hw⟩
  have hexec : execLdBVx x s = .next (s.writeBlock s.i.toNat (decimalDigits (s.reg x))) :=
    if_pos (State.inRange_of_le hfit)
  have hbyte : ∀ k < 3, (s.writeBlock s.i.toNat (decimalDigits (s.reg x))).byteAt (s.i.toNat + k) =
      (decimalDigits (s.reg x)).getD k 0 := fun k hk => State.byteAt_writeBlock_add hm hfit hk
  obtain ⟨hhundreds, htens, hones⟩ := toNat_decimalDigits (s.reg x)
  exact ⟨_, hexec, rfl, (congrArg BitVec.toNat (hbyte 0 (by decide))).trans hhundreds,
    (congrArg BitVec.toNat (hbyte 1 (by decide))).trans htens,
    (congrArg BitVec.toNat (hbyte 2 (by decide))).trans hones,
    fun a ha => execLdBVx_byteAt hm hexec (by omega)⟩

/-! ### Registers to memory and back (R204, R205) -/

/-- Settles O36: the block written is `V[0]` to `V[x]`, and outside it memory is as before (`execLdMemVx_byteAt`). -/
theorem registersAreStored : Obligations.RegistersAreStored := by
  unfold Obligations.RegistersAreStored
  intro s x hm
  have hw : encode (.ldMemVx x) = wordXKK 0xF x 0x55 := (wordXKK_eq (by decide) x _).symm
  refine ⟨decode_eq_some_iff.2 hw, fun hfit => ?_, fun hout => range_faultTaken hout hw⟩
  have hexec : execLdMemVx x s =
      .next ((s.writeBlock s.i.toNat (s.regsThrough x)).setI (indexAfterBlock s.params s.i (x.val + 1))) :=
    if_pos (State.inRange_of_le hfit)
  have hlen := s.regsThrough_length x
  refine ⟨_, hexec, rfl, fun k hk => ?_, fun a ha => execLdMemVx_byteAt hm hexec (by omega)⟩
  rw [State.setI_byteAt, State.byteAt_writeBlock_add hm (by omega) (by omega), State.regsThrough_getD s hk]

/-- Settles O37: the registers are those of `State.reg_loadRegsThrough`. -/
theorem registersAreLoaded : Obligations.RegistersAreLoaded := by
  unfold Obligations.RegistersAreLoaded
  intro s x
  have hw : encode (.ldVxMem x) = wordXKK 0xF x 0x65 := (wordXKK_eq (by decide) x _).symm
  exact ⟨decode_eq_some_iff.2 hw,
    fun hfit => ⟨_, if_pos (State.inRange_of_le hfit), rfl, fun k => s.reg_loadRegsThrough x k _, fun _ => rfl⟩,
    fun hout => range_faultTaken hout hw⟩

/-- Settles O38: the store puts `V[k]` at `I + k` (`registersAreStored`), and the load from the same `I` reads it there
(`registersAreLoaded`). -/
theorem storeThenLoadRestoresRegisters : Obligations.StoreThenLoadRestoresRegisters := by
  unfold Obligations.StoreThenLoadRestoresRegisters
  intro s t t' x hm hfit hstore ht'
  obtain ⟨-, hstores, -⟩ := registersAreStored s x hm
  obtain ⟨u, hu, hframe, hbytes, -⟩ := hstores hfit
  obtain rfl : u = t := Host.Outcome.next.inj (hu.symm.trans hstore)
  have hi : t'.i = s.i := by rw [ht']
  have hp : t'.params = u.params := by rw [ht']
  have hmem : t'.mem = u.mem := by rw [ht']
  have hps : u.params = s.params := by rw [hframe]
  obtain ⟨-, hloads, -⟩ := registersAreLoaded t' x
  obtain ⟨w, hw, -, hregs, -⟩ := hloads (by rwa [hi, hp, hps])
  refine ⟨w, hw, fun k hk => ?_⟩
  calc w.reg k = t'.byteAt (t'.i.toNat + k.val) := (hregs k).trans (if_pos hk)
    _ = u.byteAt (s.i.toNat + k.val) := by rw [hi, State.byteAt_congr hp hmem]
    _ = s.reg k := hbytes k hk

end Sys2Proof.Machine
end

section
/-! Clearing the display and drawing on it (spec/44_display.md R220 to R222). -/

namespace Sys2Proof.Machine

/-- Settles O41: `CLS` leaves the blank display, which has the display's shape and no pixel set. -/
theorem clearUnsetsEveryPixel : Obligations.ClearUnsetsEveryPixel := by
  unfold Obligations.ClearUnsetsEveryPixel
  exact fun s => ⟨decode_eq_some_iff.2 rfl, _, rfl, rfl, displayShaped_blank s.params, pixelAt_blank s.params,
    fun _ => rfl⟩

/-! ### One draw (R221) -/

/-- The surface and `collide` after drawing a sprite: the sprite's places are distinct places of the display
(`drawCells_spec`), and they are the ones it covers. -/
theorem drawCells_spritePlaces {s : State} {x y : RegName} {n : BitVec 4} (hw : 8 ≤ s.params.dispW)
    (hh : 15 ≤ s.params.dispH) (hfb : displayShaped s.params s.fb) :
    displayShaped s.params (drawCells s.fb (s.spritePlaces x y n.toNat)).1 ∧
      (∀ px py, pixelAt (drawCells s.fb (s.spritePlaces x y n.toNat)).1 px py =
        (pixelAt s.fb px py ^^ spriteCovers s x y n.toNat px py)) ∧
      ((drawCells s.fb (s.spritePlaces x y n.toNat)).2 = true ↔
        ∃ px py, pixelAt s.fb px py = true ∧ spriteCovers s x y n.toNat px py = true) := by
  have hlen := s.readBlock_length s.i.toNat n.toNat
  have hin : ∀ c ∈ s.spritePlaces x y n.toNat, inGrid s.params c.1 c.2 :=
    spriteCells_inGrid (by omega) (by omega)
  have hnd : (s.spritePlaces x y n.toNat).Nodup := spriteCells_nodup hw (by omega)
  obtain ⟨hshape, hpixel, hcollide⟩ := drawCells_spec hfb hin hnd
  refine ⟨hshape, fun px py => ?_, ?_⟩
  · simp [hpixel, mem_spritePlaces]
  · simp [hcollide, mem_spritePlaces, and_comm]

/-- Settles O42: a completed draw leaves the surface of `drawCells_spritePlaces` and writes `collide` to VF; a sprite
past memory raises. -/
theorem drawFlipsTheCoveredPixels : Obligations.DrawFlipsTheCoveredPixels := by
  unfold Obligations.DrawFlipsTheCoveredPixels
  intro s x y n hdispW hdispH hfb
  have hw : encode (.drw x y n) = wordXYN 0xD x y n := (wordXYN_eq (by decide) x y n).symm
  refine ⟨decode_eq_some_iff.2 hw, fun hfit => ?_, fun hpos hout => ?_⟩
  · have hr : s.inRange s.i.toNat n.toNat = true :=
      State.inRange_iff.2 (hfit.imp_left (congrArg BitVec.toNat))
    obtain ⟨hshape, hpixel, hcollide⟩ := drawCells_spritePlaces (x := x) (y := y) (n := n) hdispW hdispH hfb
    have hvf := (s.setFb (drawCells s.fb (s.spritePlaces x y n.toNat)).1).reg_setReg_self vf
      (collisionFlag (drawCells s.fb (s.spritePlaces x y n.toNat)).2)
    refine ⟨_, if_pos hr, rfl, hshape, hpixel, fun hhit => ?_, fun hmiss => ?_,
      fun q hq => State.reg_setReg_of_ne _ _ hq, fun _ => rfl⟩
    · exact hvf.trans (congrArg collisionFlag (hcollide.2 hhit))
    · refine hvf.trans (congrArg collisionFlag (Bool.eq_false_iff.2 fun hc => ?_))
      obtain ⟨px, py, hset, hcovers⟩ := hcollide.1 hc
      exact Bool.false_ne_true ((hmiss px py hset).symm.trans hcovers)
  · have hr : ¬ s.inRange s.i.toNat n.toNat = true := by
      rw [State.inRange_iff]
      omega
    exact ⟨_, if_neg hr, State.raise_faultTaken hw _⟩

/-! ### The same draw again (R222) -/

/-- What a sprite covers depends on the display's size, `I`, the two coordinate registers and memory. -/
theorem spriteCovers_congr {s t : State} {x y : RegName} (hp : t.params = s.params) (hi : t.i = s.i)
    (hx : t.reg x = s.reg x) (hy : t.reg y = s.reg y) (hbyte : ∀ a, t.byteAt a = s.byteAt a) (n px py : Nat) :
    spriteCovers t x y n px py = spriteCovers s x y n px py := by
  simp only [spriteCovers, hp, hi, hx, hy, hbyte]

/-- Settles O43: the first draw leaves the sprite where it was, so the second flips the same pixels back and collides
exactly on those the first one set (`drawFlipsTheCoveredPixels`, twice). -/
theorem drawingTwiceRestoresTheDisplay : Obligations.DrawingTwiceRestoresTheDisplay := by
  unfold Obligations.DrawingTwiceRestoresTheDisplay
  intro s t x y n hdispW hdispH hfb hx hy hfit hdraw
  obtain ⟨-, hfirst, -⟩ := drawFlipsTheCoveredPixels s x y n hdispW hdispH hfb
  obtain ⟨t', ht', hframe, hshape, hpixel, -, -, hreg, hbyte⟩ := hfirst hfit
  obtain rfl : t' = t := Host.Outcome.next.inj (ht'.symm.trans hdraw)
  have hp : t'.params = s.params := by rw [hframe]
  have hi : t'.i = s.i := by rw [hframe]
  have hcovers := spriteCovers_congr hp hi (hreg x hx) (hreg y hy) hbyte n.toNat
  obtain ⟨-, hsecond, -⟩ := drawFlipsTheCoveredPixels t' x y n (by rwa [hp]) (by rwa [hp]) hshape
  obtain ⟨u, hu, huframe, hushape, hupixel, hhit, hmiss, -, -⟩ := hsecond (by rwa [hp, hi])
  have hup : u.params = s.params := by rw [huframe, hp]
  have hback : ∀ px py, pixelAt u.fb px py = pixelAt s.fb px py := fun px py => by
    rw [hupixel, hcovers, hpixel, Bool.xor_assoc, Bool.xor_self, Bool.xor_false]
  have hoverlap : ∀ px py, pixelAt t'.fb px py = true ∧ spriteCovers t' x y n.toNat px py = true ↔
      spriteCovers s x y n.toNat px py = true ∧ pixelAt s.fb px py = false := fun px py => by
    rw [hpixel, hcovers]
    cases spriteCovers s x y n.toNat px py <;> simp
  refine ⟨u, hu, display_ext (hup ▸ hushape) hfb hback, ?_⟩
  by_cases hov : ∃ px py, spriteCovers s x y n.toNat px py = true ∧ pixelAt s.fb px py = false
  · have hone : u.reg 15 = 1 := by
      obtain ⟨px, py, h⟩ := hov
      exact hhit ⟨px, py, (hoverlap px py).2 h⟩
    exact ⟨iff_of_true hone hov, .inr hone⟩
  · have hzero : u.reg 15 = 0 := hmiss fun px py hset =>
      Bool.eq_false_iff.2 fun hc => hov ⟨px, py, (hoverlap px py).1 ⟨hset, hc⟩⟩
    exact ⟨iff_of_false (by rw [hzero]; decide) hov, .inl hzero⟩

end Sys2Proof.Machine
end

section
/-! Key input and the timers: the skips on a key, the key wait, and the timer instructions
(spec/45_timers_input.md R240 to R245). -/

namespace Sys2Proof.Machine

/-! ### Skips on a key (R240, R241) -/

theorem execSkp_of_key {s : State} {x : RegName} {k : KeyName} (h : (s.reg x).toNat = k.val) :
    execSkp x s = .next (s.skipIf (s.keyDown k)) := by
  rw [execSkp, keyNamed_eq_some.2 h]

theorem execSknp_of_key {s : State} {x : RegName} {k : KeyName} (h : (s.reg x).toNat = k.val) :
    execSknp x s = .next (s.skipIf (!s.keyDown k)) := by
  rw [execSknp, keyNamed_eq_some.2 h]

theorem execSkp_invalidKey {s : State} {x : RegName} (h : 0x0F < (s.reg x).toNat) :
    execSkp x s = .next (s.raise .invalidKey (.skp x)) := by
  rw [execSkp, keyNamed_eq_none.2 h]

theorem execSknp_invalidKey {s : State} {x : RegName} (h : 0x0F < (s.reg x).toNat) :
    execSknp x s = .next (s.raise .invalidKey (.sknp x)) := by
  rw [execSknp, keyNamed_eq_none.2 h]

/-- Settles O45: a value that names a key skips by `State.skipIf_eq` or `State.skipIf_not_eq` on that key's bit, and
any other raises. -/
theorem skipsOnAKey : Obligations.SkipsOnAKey := by
  unfold Obligations.SkipsOnAKey
  intro s x
  have hskp : encode (.skp x) = wordXKK 0xE x 0x9E := (wordXKK_eq (by decide) x _).symm
  have hsknp : encode (.sknp x) = wordXKK 0xE x 0xA1 := (wordXKK_eq (by decide) x _).symm
  refine ⟨decode_eq_some_iff.2 hskp, decode_eq_some_iff.2 hsknp, fun k hk => ⟨?_, ?_⟩, fun hout =>
    ⟨⟨_, execSkp_invalidKey hout, State.raise_faultTaken hskp _⟩,
      _, execSknp_invalidKey hout, State.raise_faultTaken hsknp _⟩⟩
  · rw [← State.skipIf_eq, Bool.decide_eq_true]
    exact execSkp_of_key hk
  · rw [← State.skipIf_not_eq, decide_not, Bool.decide_eq_true]
    exact execSknp_of_key hk

/-! ### The key wait (R243, R149) -/

theorem toNat_keyByte (k : KeyName) : (keyByte k).toNat = k.val :=
  toNat_byte_ofNat (k.isLt.trans (by decide))

/-- The lowest set bit is the only one below which none is set. -/
theorem lowestKey_of_least {ks : Vector Bool 16} {k : KeyName} (hk : ks[k.val] = true)
    (hlow : ∀ j : KeyName, j < k → ks[j.val] = false) : lowestKey ks = some k := by
  cases h : lowestKey ks with
  | none => simp [lowestKey_eq_none.1 h k] at hk
  | some m =>
    obtain ⟨hm, hmlow⟩ := lowestKey_eq_some h
    have hmk : ¬ m < k := fun hlt => Bool.false_ne_true ((hlow m hlt).symm.trans hm)
    have hkm : ¬ k < m := fun hlt => Bool.false_ne_true ((hmlow k hlt).symm.trans hk)
    rw [le_antisymm (not_lt.1 hkm) (not_lt.1 hmk)]

section Level
variable {s : State} {x : RegName} (hl : s.params.keyWaitTrigger = .level)
include hl

theorem execLdVxK_level_of_key {k : KeyName} (h : lowestKey s.key = some k) :
    execLdVxK x s = .next (s.setReg x (keyByte k)) := by
  rw [execLdVxK, hl, keyWaitLevel, h]

theorem execLdVxK_level_of_no_key (h : lowestKey s.key = none) : execLdVxK x s = .next s.reexecute := by
  rw [execLdVxK, hl, keyWaitLevel, h]

end Level

section Edge
variable {s : State} {x : RegName} (he : s.params.keyWaitTrigger = .edge)
include he

theorem execLdVxK_edge_of_not_armed (ha : s.waitArmed = false) :
    execLdVxK x s = .next (s.setWait true).reexecute := by
  rw [execLdVxK, he, keyWaitEdge, ha]
  rfl

theorem execLdVxK_edge_of_event (ha : s.waitArmed = true) {k : KeyName} (h : lowestKey s.keyEvents = some k) :
    execLdVxK x s = .next ((s.setReg x (keyByte k)).setWait false) := by
  rw [execLdVxK, he, keyWaitEdge, if_pos ha, h]

theorem execLdVxK_edge_of_no_event (ha : s.waitArmed = true) (h : lowestKey s.keyEvents = none) :
    execLdVxK x s = .next s.reexecute := by
  rw [execLdVxK, he, keyWaitEdge, if_pos ha, h]

end Edge

/-- What the wait stores is the number of the key it found. -/
theorem State.toNat_reg_setReg_keyByte (s : State) (x : RegName) (k : KeyName) :
    ((s.setReg x (keyByte k)).reg x).toNat = k.val := by
  rw [State.reg_setReg_self, toNat_keyByte]

/-- Settles O46: the key stored is `lowestKey` of the keys held or of the events (`lowestKey_of_least`), and where it
finds none the instruction is executed again. -/
theorem keyWaitStoresTheLowestKeyOrRepeats : Obligations.KeyWaitStoresTheLowestKeyOrRepeats := by
  unfold Obligations.KeyWaitStoresTheLowestKeyOrRepeats
  refine fun s x => ⟨decode_eq_some_iff.2 (wordXKK_eq (by decide) x _).symm, fun hl => ⟨fun k hk hlow => ?_,
    fun hnone => execLdVxK_level_of_no_key hl (lowestKey_eq_none.2 hnone)⟩, fun he =>
    ⟨execLdVxK_edge_of_not_armed he, fun ha => ⟨fun k hk hlow => ?_,
      fun hnone => execLdVxK_edge_of_no_event he ha (lowestKey_eq_none.2 hnone)⟩⟩⟩
  · exact ⟨_, execLdVxK_level_of_key hl (lowestKey_of_least hk hlow), s.toNat_reg_setReg_keyByte x k,
      s.onlyRegisters_setReg x _⟩
  · exact ⟨_, execLdVxK_edge_of_event he ha (lowestKey_of_least hk hlow), s.toNat_reg_setReg_keyByte x k, rfl,
      fun _ hr => s.reg_setReg_of_ne _ hr, fun _ => rfl⟩

/-! ### The timers (R242, R244, R245) -/

/-- Settles O47: `LD Vx, DT` is one register write, and the other two write the timer they name. -/
theorem timerInstructions : Obligations.TimerInstructions := by
  unfold Obligations.TimerInstructions
  exact fun s x =>
    ⟨⟨decode_eq_some_iff.2 (wordXKK_eq (by decide) x _).symm,
        _, rfl, s.reg_setReg_self x _, s.onlyRegisters_setReg x _⟩,
      ⟨decode_eq_some_iff.2 (wordXKK_eq (by decide) x _).symm, rfl⟩,
      decode_eq_some_iff.2 (wordXKK_eq (by decide) x _).symm, rfl⟩

end Sys2Proof.Machine
end

section
/-! When a step faults, what it never looks at, and the states it does not leave (spec/40_execution_cycle.md R140 to
R151, spec/60_exceptions.md R300, R306, R323, R328). -/

namespace Sys2Proof.Machine

/-! ### The fault table (R300, R306) -/

/-- No instruction's fault depends on `pc`. -/
@[simp] theorem instrFault_advance (i : Instr) (s : State) : instrFault i s.advance = instrFault i s := by
  cases i <;> rfl

theorem stepFault_of_not_fetchable {s : State} (hf : s.fetchable = false) : stepFault s = some .outOfBounds :=
  if_pos (not_lt.1 (of_decide_eq_false hf))

theorem stepFault_of_invalid {s : State} (hf : s.fetchable = true) (hd : decode s.fetchWord = none) :
    stepFault s = some .invalidOpcode := by
  rw [stepFault, if_neg (State.fetchable_iff.1 hf).not_ge, hd]

theorem stepFault_of_decoded {s : State} {i : Instr} (hf : s.fetchable = true) (hd : decode s.fetchWord = some i) :
    stepFault s = instrFault i s := by
  rw [stepFault, if_neg (State.fetchable_iff.1 hf).not_ge, hd]

/-- A step from an unlatched state leaves the latch where the fault table gives no kind, and latches the kind the
table gives otherwise. -/
theorem step_fault {s t : State} (hv : s.fault.valid = false) (h : step s = .next t) :
    (stepFault s = none ∧ t.fault = s.fault) ∨
      ∃ k, stepFault s = some k ∧ t.fault.valid = true ∧ t.fault.kind = k := by
  obtain ⟨hv', -⟩ | ⟨-, hf, rfl⟩ | ⟨-, hf, hd, rfl⟩ | ⟨-, hf, i, hd, he⟩ := step_cases h
  · simp [hv] at hv'
  · exact .inr ⟨_, stepFault_of_not_fetchable hf, rfl, rfl⟩
  · exact .inr ⟨_, stepFault_of_invalid hf hd, rfl, rfl⟩
  · rw [stepFault_of_decoded hf hd, ← instrFault_advance]
    obtain ⟨hnone, hsame⟩ | ⟨k, hk, rfl⟩ := exec_fault he
    · exact .inl ⟨hnone, hsame⟩
    · exact .inr ⟨k, hk, rfl, rfl⟩

/-! ### The response of a step (R140) -/

theorem commandStep_of_step {s t : State} (h : step s = .next t) :
    commandStep s = .next (.stepped (stepResponse t), t) := by
  rw [commandStep, h]

theorem stepResponse_of_faulted {t : State} (h : t.fault.valid = true) :
    stepResponse t = .engineError t.fault.kind :=
  if_pos h

theorem stepResponse_of_not_faulted {t : State} (h : t.fault.valid = false) : stepResponse t = .ok :=
  if_neg (by simp [h])

/-- Settles O12: with `sp` on the stack the step completes (`step_keeps`), and its latch is the fault table's
(`step_fault`). -/
theorem stepFaultsExactlyByTheTable : Obligations.StepFaultsExactlyByTheTable := by
  unfold Obligations.StepFaultsExactlyByTheTable
  intro s hv hsp
  obtain ⟨t, h, -⟩ := step_keeps hsp
  have hcmd : command .stepOnce s = .next (.stepped (stepResponse t), t) := commandStep_of_step h
  refine ⟨t, h, ?_⟩
  obtain ⟨hnone, hsame⟩ | ⟨k, hk, hvalid, rfl⟩ := step_fault hv h
  · refine ⟨fun _ => ⟨hsame, ?_⟩, fun k hk => ?_⟩
    · rw [hcmd, stepResponse_of_not_faulted (hsame ▸ hv)]
    · simp [hnone] at hk
  · refine ⟨fun hnone => ?_, fun k' hk' => ?_⟩
    · simp [hk] at hnone
    · obtain rfl : t.fault.kind = k' := Option.some.inj (hk.symm.trans hk')
      exact ⟨hvalid, rfl, by rw [hcmd, stepResponse_of_faulted hvalid]⟩

/-! ### `MODE` and `BP` are the debugger's (R323, R40, R41) -/

/-- The state with another run mode and another breakpoint set. -/
def State.withDebug (s : State) (m : RunMode) (bp : List Word) : State := { s with mode := m, bp := bp }

section WithDebug

variable (m : RunMode) (bp : List Word)

theorem State.skipIf_withDebug (s : State) (c : Bool) :
    (s.withDebug m bp).skipIf c = (s.skipIf c).withDebug m bp := by
  cases c <;> rfl

theorem State.setLogic_withDebug (s : State) (x : RegName) (b : Byte) :
    (s.withDebug m bp).setLogic x b = (s.setLogic x b).withDebug m bp := by
  have hp : (s.withDebug m bp).params = s.params := rfl
  unfold State.setLogic
  rw [hp]
  split <;> rfl

variable {m bp} {s t : State}

/-- A range check reads neither, so an update that commutes with setting them does so behind the check (R74). -/
theorem range_withDebug {u : State} {a n : Nat} {i : Instr}
    (h : (if s.inRange a n then Host.Outcome.next u else .next (s.raise .outOfBounds i)) =
      (.next t : Host.Outcome State Fault Refusal)) :
    (if (s.withDebug m bp).inRange a n then Host.Outcome.next (u.withDebug m bp)
      else .next ((s.withDebug m bp).raise .outOfBounds i)) =
      (.next (t.withDebug m bp) : Host.Outcome State Fault Refusal) := by
  obtain ⟨hr, rfl⟩ | ⟨hr, rfl⟩ := range_cases h
  · exact if_pos hr
  · exact if_neg (Bool.eq_false_iff.1 hr)

theorem execRet_withDebug (h : execRet s = .next t) : execRet (s.withDebug m bp) = .next (t.withDebug m bp) := by
  obtain ⟨h0, rfl⟩ | ⟨h0, hk, rfl⟩ := execRet_cases h
  · exact execRet_underflow h0
  · exact execRet_pop (s := s.withDebug m bp) h0 hk

theorem execCall_withDebug {nnn : BitVec 12} (h : execCall nnn s = .next t) :
    execCall nnn (s.withDebug m bp) = .next (t.withDebug m bp) := by
  obtain ⟨h16, rfl⟩ | ⟨hk, rfl⟩ := execCall_cases h
  · exact execCall_overflow nnn h16
  · exact execCall_push (s := s.withDebug m bp) nnn hk

theorem execSkp_withDebug {x : RegName} (h : execSkp x s = .next t) :
    execSkp x (s.withDebug m bp) = .next (t.withDebug m bp) := by
  obtain ⟨hk, rfl⟩ | ⟨k, hk, rfl⟩ := execSkp_cases h
  · exact execSkp_invalidKey (keyNamed_eq_none.1 hk)
  · rw [← State.skipIf_withDebug]
    exact execSkp_of_key (keyNamed_eq_some.1 hk)

theorem execSknp_withDebug {x : RegName} (h : execSknp x s = .next t) :
    execSknp x (s.withDebug m bp) = .next (t.withDebug m bp) := by
  obtain ⟨hk, rfl⟩ | ⟨k, hk, rfl⟩ := execSknp_cases h
  · exact execSknp_invalidKey (keyNamed_eq_none.1 hk)
  · rw [← State.skipIf_withDebug]
    exact execSknp_of_key (keyNamed_eq_some.1 hk)

theorem keyWaitLevel_withDebug (x : RegName) :
    keyWaitLevel x (s.withDebug m bp) = (keyWaitLevel x s).withDebug m bp := by
  have hkey : (s.withDebug m bp).key = s.key := rfl
  rw [keyWaitLevel, keyWaitLevel, hkey]
  cases lowestKey s.key <;> rfl

theorem keyWaitEdge_withDebug (x : RegName) :
    keyWaitEdge x (s.withDebug m bp) = (keyWaitEdge x s).withDebug m bp := by
  have harmed : (s.withDebug m bp).waitArmed = s.waitArmed := rfl
  have hevents : (s.withDebug m bp).keyEvents = s.keyEvents := rfl
  rw [keyWaitEdge, keyWaitEdge, harmed, hevents]
  cases s.waitArmed
  · rfl
  · cases lowestKey s.keyEvents <;> rfl

theorem execLdVxK_withDebug {x : RegName} (h : execLdVxK x s = .next t) :
    execLdVxK x (s.withDebug m bp) = .next (t.withDebug m bp) := by
  have hp : (s.withDebug m bp).params = s.params := rfl
  rw [execLdVxK] at h ⊢
  rw [hp]
  cases htrig : s.params.keyWaitTrigger <;> rw [htrig] at h <;> cases h
  · exact congrArg _ (keyWaitLevel_withDebug x)
  · exact congrArg _ (keyWaitEdge_withDebug x)

/-- Every instruction does the same whatever `MODE` and `BP` are, and carries them along. -/
theorem exec_withDebug : ∀ {i : Instr}, exec i s = .next t →
    exec i (s.withDebug m bp) = .next (t.withDebug m bp)
  | .ret, h => execRet_withDebug h
  | .call _, h => execCall_withDebug h
  | .skp _, h => execSkp_withDebug h
  | .sknp _, h => execSknp_withDebug h
  | .ldVxK _, h => execLdVxK_withDebug h
  | .drw _ _ _, h | .ldBVx _, h | .ldMemVx _, h | .ldVxMem _, h => range_withDebug h
  | .seByte _ _, h | .sneByte _ _, h | .seReg _ _, h | .sneReg _ _, h => by
    cases h
    exact congrArg _ (State.skipIf_withDebug ..)
  | .orReg _ _, h | .andReg _ _, h | .xorReg _ _, h => by
    cases h
    exact congrArg _ (State.setLogic_withDebug ..)
  | .cls, h | .jp _, h | .jpV0 _, h | .ldByte _ _, h | .addByte _ _, h | .ldReg _ _, h | .addReg _ _, h
  | .subReg _ _, h | .shr _ _, h | .subnReg _ _, h | .shl _ _, h | .ldI _, h | .rnd _ _, h | .ldVxDt _, h
  | .ldDtVx _, h | .ldStVx _, h | .addIVx _, h | .ldFVx _, h => by
    cases h
    rfl

theorem step_withDebug (h : step s = .next t) (m : RunMode) (bp : List Word) :
    step (s.withDebug m bp) = .next (t.withDebug m bp) := by
  obtain ⟨hv, rfl⟩ | ⟨hv, hf, rfl⟩ | ⟨hv, hf, hd, rfl⟩ | ⟨hv, hf, i, hd, he⟩ := step_cases h
  · exact step_of_faulted hv
  · exact step_of_not_fetchable hv hf
  · exact step_of_invalid hv hf hd
  · exact (step_of_decoded (s := s.withDebug m bp) hv hf hd).trans (exec_withDebug he)

/-- A step carries `MODE` and `BP` along: with the two set to what they are, the state is itself. -/
theorem step_mode_bp (h : step s = .next t) : t.mode = s.mode ∧ t.bp = s.bp := by
  have ht : t = t.withDebug s.mode s.bp := Host.Outcome.next.inj (h.symm.trans (step_withDebug h s.mode s.bp))
  constructor <;> rw [ht] <;> rfl

theorem step_setMode (h : step s = .next t) (m : RunMode) : step (s.setMode m) = .next (t.setMode m) := by
  have hstep : step (s.setMode m) = .next (t.withDebug m s.bp) := step_withDebug h m s.bp
  rw [hstep, ← (step_mode_bp h).2]
  rfl

end WithDebug

/-- Settles O56: by `step_mode_bp` and `step_withDebug`. -/
theorem stepIgnoresModeAndBreakpoints : Obligations.StepIgnoresModeAndBreakpoints := by
  unfold Obligations.StepIgnoresModeAndBreakpoints
  intro s t m bp h
  obtain ⟨hmode, hbp⟩ := step_mode_bp h
  exact ⟨hmode, hbp, step_withDebug h m bp⟩

/-! ### Parked and waiting states (R328, R149, R151) -/

theorem State.parked_iff {s : State} :
    s.parked = true ↔ s.fetchable = true ∧ ∃ nnn, decode s.fetchWord = some (.jp nnn) ∧ zext16 nnn = s.pc := by
  unfold State.parked
  rw [Bool.and_eq_true]
  refine and_congr_right fun _ => ?_
  split
  · next nnn hd => simp [hd]
  · next hd => simpa using fun nnn hnnn => absurd hnnn (hd nnn)

theorem State.waiting_iff {s : State} :
    s.waiting = true ↔ s.fault.valid = false ∧ s.fetchable = true ∧
      (∃ x, decode s.fetchWord = some (.ldVxK x)) ∧ s.keyWaitSpins = true := by
  unfold State.waiting State.faulted
  rw [Bool.and_eq_true, Bool.and_eq_true, Bool.not_eq_true', and_assoc]
  refine and_congr_right fun _ => and_congr_right fun _ => ?_
  split
  · next x hd => simp [hd]
  · next hd => simpa using fun x hx => absurd hx (hd x)

/-- Repeating an instruction takes the fetch advance back (R143, R149). -/
theorem State.reexecute_advance (s : State) : s.advance.reexecute = s := by
  rw [State.reexecute, State.advance_pc, advance_pc_sub_two]
  rfl

/-- Where `LD Vx, K` would spin it is executed again; under `EDGE` the wait may be armed first (R243). -/
theorem execLdVxK_of_spins {s : State} (x : RegName) (h : s.keyWaitSpins = true) :
    execLdVxK x s = .next s.reexecute ∨
      (s.params.keyWaitTrigger = .edge ∧ execLdVxK x s = .next (s.setWait true).reexecute) := by
  unfold State.keyWaitSpins at h
  split at h
  · next hl => exact .inl (execLdVxK_level_of_no_key hl (Option.isNone_iff_eq_none.1 h))
  · next he =>
    cases ha : s.waitArmed with
    | false => exact .inr ⟨he, execLdVxK_edge_of_not_armed he ha⟩
    | true =>
      simp only [ha, Bool.not_true, Bool.false_or] at h
      exact .inl (execLdVxK_edge_of_no_event he ha (Option.isNone_iff_eq_none.1 h))

theorem step_of_parked {s : State} (h : s.parked = true) : step s = .next s := by
  obtain ⟨hf, nnn, hd, hpc⟩ := State.parked_iff.1 h
  cases hv : s.fault.valid with
  | true => exact step_of_faulted hv
  | false =>
    have hjump : s.advance.setPc (zext16 nnn) = s := by rw [hpc]; rfl
    exact (step_of_decoded hv hf hd).trans (congrArg _ hjump)

/-- A waiting state steps to itself, or under `EDGE` to itself with the wait armed. -/
theorem step_of_waiting {s : State} (h : s.waiting = true) :
    step s = .next s ∨ (s.params.keyWaitTrigger = .edge ∧ step s = .next (s.setWait true)) := by
  obtain ⟨hv, hf, ⟨x, hd⟩, hspin⟩ := State.waiting_iff.1 h
  rw [step_of_decoded hv hf hd]
  obtain he | ⟨hedge, he⟩ := execLdVxK_of_spins (s := s.advance) x hspin
  · exact .inl (he.trans (congrArg _ s.reexecute_advance))
  · exact .inr ⟨hedge, he.trans (congrArg _ (s.setWait true).reexecute_advance)⟩

/-- Settles O59: by `step_of_parked`, and `step_of_waiting`, where arming the wait moves neither `pc` nor a register. -/
theorem parkedAndWaitingStatesStay : Obligations.ParkedAndWaitingStatesStay := by
  unfold Obligations.ParkedAndWaitingStatesStay
  refine fun s => ⟨step_of_parked, fun h => ?_⟩
  obtain ⟨hv, -⟩ := State.waiting_iff.1 h
  refine ⟨hv, ?_⟩
  obtain hstep | ⟨hedge, hstep⟩ := step_of_waiting h
  · exact ⟨s, hstep, rfl, rfl, hv, fun _ => rfl⟩
  · exact ⟨_, hstep, rfl, rfl, hv, fun hl => nomatch hedge.symm.trans hl⟩

end Sys2Proof.Machine
end

section
/-! The command port and the debug controller: what each command answers and which fields it changes
(spec/60_exceptions.md R310 to R326). -/

namespace Sys2Proof.Machine

/-! ### The timers and the sound signal (R310, R311) -/

theorem decrement_eq_ofNat (b : Byte) : decrement b = BitVec.ofNat 8 (b.toNat - 1) := by
  unfold decrement
  split
  · next h => rw [h]; rfl
  · next h => bv_omega

/-- Settles O48: a decrement is the natural subtraction of 1, and `ST` is 0 when its number is. -/
theorem tickAndSoundSignal : Obligations.TickAndSoundSignal := by
  unfold Obligations.TickAndSoundSignal
  intro s
  have hzero : s.st ≠ 0 ↔ s.st.toNat ≠ 0 := not_congr BitVec.toNat_inj.symm
  constructor
  · rw [← decrement_eq_ofNat, ← decrement_eq_ofNat]
    rfl
  · simp only [command, State.soundActive, hzero]

/-! ### The keys (R314) -/

theorem commandSetKey_of_key (k : KeyName) (pressed : Bool) (s : State) :
    commandSetKey k.val pressed s = (.ok, s.setKeyBit k pressed) :=
  dif_pos k.isLt

theorem commandSetKey_of_no_key {index : Nat} (h : 15 < index) (pressed : Bool) (s : State) :
    commandSetKey index pressed s = (.invalidKey, s) :=
  dif_neg (by omega)

/-- An event is recorded for a new press of the key under `EDGE`, and no event is lost. -/
theorem State.setKeyBit_keyEvents (s : State) (k j : KeyName) (pressed : Bool) :
    (s.setKeyBit k pressed).keyEvents[j.val] =
      (s.keyEvents[j.val] ||
        (decide (j = k) && decide (s.params.keyWaitTrigger = .edge) && pressed && !s.keyDown k)) := by
  unfold State.setKeyBit
  dsimp only
  split
  · next h =>
    obtain ⟨hedge, hup, rfl⟩ := h
    by_cases hj : j = k
    · simp [hj, hedge, hup]
    · have hjk : k.val ≠ j.val := fun h => hj (Fin.ext h.symm)
      simp [hj, hjk]
  · next h =>
    have hno : (decide (s.params.keyWaitTrigger = .edge) && (pressed && !s.keyDown k)) = false := by
      rw [Bool.eq_false_iff]
      simpa [and_comm] using h
    rw [Bool.and_assoc, Bool.and_assoc, hno, Bool.and_false, Bool.or_false]

/-- Settles O49: a key's number sets its bit (`State.keyDown_setKeyBit`) and its event
(`State.setKeyBit_keyEvents`); any other index is refused. -/
theorem setKeyUpdatesTheLatch : Obligations.SetKeyUpdatesTheLatch := by
  unfold Obligations.SetKeyUpdatesTheLatch
  refine fun s pressed => ⟨fun k => ⟨s.setKeyBit k pressed, ?_, rfl, fun j => s.keyDown_setKeyBit k j pressed,
    fun j => s.setKeyBit_keyEvents k j pressed⟩, fun index h => ?_⟩
  · rw [command, commandSetKey_of_key]
  · rw [command, commandSetKey_of_no_key h]

/-! ### The display (R313) -/

theorem flatten_length_of_row_length {w : Nat} {rows : List (List Bool)} (h : ∀ row ∈ rows, row.length = w) :
    rows.flatten.length = w * rows.length := by
  rw [List.length_flatten, List.sum_eq_card_nsmul _ w (by simpa using h), List.length_map, smul_eq_mul, Nat.mul_comm]

/-- In rows of one length, flattened, the pixel of row `py` and column `px` stands after `py` whole rows. -/
theorem flatten_getElem?_pixelAt {w px : Nat} (hpx : px < w) :
    ∀ {rows : List (List Bool)} {py : Nat}, (∀ row ∈ rows, row.length = w) → py < rows.length →
      rows.flatten[py * w + px]? = some (pixelAt rows px py)
  | row :: rows, py, h, hpy => by
    obtain ⟨hrow, hrows⟩ := List.forall_mem_cons.1 h
    rw [List.flatten_cons, List.getElem?_append]
    cases py with
    | zero => simp [hrow, hpx, pixelAt]
    | succ py =>
      rw [if_neg (by rw [hrow, Nat.succ_mul]; omega), hrow,
        show (py + 1) * w + px - w = py * w + px by rw [Nat.succ_mul]; omega,
        flatten_getElem?_pixelAt hpx hrows (Nat.lt_of_succ_lt_succ hpy)]
      rfl

/-- Settles O58: by the two laws of rows of one length, flattened. -/
theorem readFramebufferIsRowMajor : Obligations.ReadFramebufferIsRowMajor := by
  unfold Obligations.ReadFramebufferIsRowMajor
  rintro s ⟨hheight, hwidth⟩
  refine ⟨s.pixels, rfl, ?_, fun px py hpx hpy => flatten_getElem?_pixelAt hpx hwidth (hheight ▸ hpy)⟩
  rw [State.pixels, flatten_length_of_row_length hwidth, hheight]

/-! ### The breakpoint set (R317) -/

theorem insertAddr_insertAddr (a : Word) : ∀ bp : List Word, insertAddr a (insertAddr a bp) = insertAddr a bp
  | [] => by simp [insertAddr]
  | b :: bp => by
    by_cases hlt : a.toNat < b.toNat
    · simp [insertAddr, hlt]
    · by_cases heq : a = b
      · simp [insertAddr, heq]
      · simp [insertAddr, hlt, heq, insertAddr_insertAddr a bp]

/-- Settles O52: the members after an insertion are `mem_insertAddr`'s, those after a removal the filter's, and
either repeated gives the same list. -/
theorem breakpointsAreASet : Obligations.BreakpointsAreASet := by
  unfold Obligations.BreakpointsAreASet
  refine fun s addr => ⟨⟨_, rfl, rfl, fun a => mem_insertAddr, ?_⟩, ⟨_, rfl, rfl, fun a => ?_, ?_⟩⟩
  · simp [command, State.setBp, insertAddr_insertAddr]
  · simp [and_comm]
  · simp [command, State.setBp]

/-! ### The run mode (R318, R322) -/

/-- Settles O54: both commands are `setMode`, which changes nothing in the mode it sets. -/
theorem runModeCommands : Obligations.RunModeCommands := by
  unfold Obligations.RunModeCommands
  refine fun s => ⟨rfl, fun hrun => ?_, rfl⟩
  have hsame : s.setMode .running = s := by rw [← hrun]; rfl
  rw [command, hsame]

/-! ### `RUN_SLICE` (R319, R320, R306) -/

/-- The slice runs on past this post-step state: no fault, and no breakpoint at `pc`. -/
def State.runsOn (t : State) : Prop := t.fault.valid = false ∧ t.pc ∉ t.bp

/-- How a slice of `n` steps may end in the state `t` after its `k`-th step: the answer and the state left. -/
inductive SliceEnd (n k : Nat) (t : State) : Response → State → Prop
  | budget (hk : k = n) (ht : 0 < n → t.runsOn) : SliceEnd n k t .keepRunning t
  | faulted (hk : 0 < k) (ht : t.fault.valid = true) :
      SliceEnd n k t (.stepped (.engineError t.fault.kind)) (t.setMode .halted)
  | breakpoint (hk : 0 < k) (hv : t.fault.valid = false) (ht : t.pc ∈ t.bp) :
      SliceEnd n k t (.breakpoint t.pc) (t.setMode .halted)

/-- The slice runs on past every post-step state before the `k`-th. -/
def RunsOnBefore (k : Nat) (s : State) : Prop :=
  ∀ j t, 0 < j → j < k → steps j s = .next t → t.runsOn

theorem runsOnBefore_of_le_one {k : Nat} (h : k ≤ 1) (s : State) : RunsOnBefore k s :=
  fun _ _ h0 hj => absurd h0 (by omega)

theorem steps_succ {s t : State} (h : step s = .next t) (n : Nat) : steps (n + 1) s = steps n t := by
  rw [steps, h]

theorem RunsOnBefore.succ {s t : State} {k : Nat} (hstep : step s = .next t) (ht : t.runsOn)
    (h : RunsOnBefore k t) : RunsOnBefore (k + 1) s
  | 0, _, h0, _, _ => absurd h0 (lt_irrefl 0)
  | 1, _, _, _, hsteps => Host.Outcome.next.inj ((steps_succ hstep 0).symm.trans hsteps) ▸ ht
  | j + 2, _, _, hj, hsteps =>
    h (j + 1) _ j.succ_pos (Nat.lt_of_succ_lt_succ hj) ((steps_succ hstep (j + 1)).symm.trans hsteps)

theorem SliceEnd.succ {n k : Nat} {t u : State} {r : Response} (h0 : k = 0 → t.runsOn) :
    SliceEnd n k t r u → SliceEnd (n + 1) (k + 1) t r u
  | .budget hk ht => by
    refine .budget (congrArg _ hk) fun _ => ?_
    rcases n.eq_zero_or_pos with hn | hn
    · exact h0 (hk.trans hn)
    · exact ht hn
  | .faulted _ ht => .faulted k.succ_pos ht
  | .breakpoint _ hv ht => .breakpoint k.succ_pos hv ht

/-- A slice is a run of steps up to the first state it does not run on past. -/
theorem runSliceSteps_spec {r : Response} {u : State} : ∀ {n : Nat} {s : State}, runSliceSteps n s = .next (r, u) →
    ∃ k t, k ≤ n ∧ steps k s = .next t ∧ RunsOnBefore k s ∧ SliceEnd n k t r u
  | 0, _, h => by
    cases h
    exact ⟨0, u, le_rfl, rfl, runsOnBefore_of_le_one zero_le_one u, .budget rfl fun h => absurd h (lt_irrefl 0)⟩
  | n + 1, s, h => by
    rw [runSliceSteps] at h
    split at h
    · next t hstep =>
      have hone : steps 1 s = .next t := steps_succ hstep 0
      have hfirst : RunsOnBefore 1 s := runsOnBefore_of_le_one le_rfl s
      split at h
      · next hv =>
        cases h
        exact ⟨1, t, n.succ_pos, hone, hfirst, .faulted one_pos hv⟩
      · next hv =>
        replace hv := Bool.eq_false_iff.2 hv
        split at h
        · next hbp =>
          cases h
          exact ⟨1, t, n.succ_pos, hone, hfirst, .breakpoint one_pos hv (by simpa using hbp)⟩
        · next hbp =>
          have ht : t.runsOn := ⟨hv, by simpa using hbp⟩
          obtain ⟨k, t', hk, hsteps, hbefore, hend⟩ := runSliceSteps_spec h
          refine ⟨k + 1, t', Nat.succ_le_succ hk, (steps_succ hstep k).trans hsteps, hbefore.succ hstep ht,
            hend.succ ?_⟩
          rintro rfl
          exact Host.Outcome.next.inj hsteps ▸ ht
    · cases h
    · cases h

/-- No step leaves the mode (R323). -/
theorem steps_mode {t : State} : ∀ {n : Nat} {s : State}, steps n s = .next t → t.mode = s.mode
  | 0, _, h => by
    cases h
    rfl
  | n + 1, s, h => by
    rw [steps] at h
    split at h
    · next u hstep => exact (steps_mode h).trans (step_mode_bp hstep).1
    · cases h
    · cases h

theorem commandRunSlice_of_running {s : State} (h : s.mode = .running) (n : Nat) :
    commandRunSlice n s = runSliceSteps n s := by
  rw [commandRunSlice, h]

theorem commandRunSlice_of_not_running {s : State} (h : s.mode ≠ .running) (n : Nat) :
    commandRunSlice n s = .next (.notRunning, s) := by
  unfold commandRunSlice
  split
  · next hrun => exact absurd hrun h
  · rfl
  · rfl

/-- Settles O53: by the ends of a slice (`runSliceSteps_spec`); one that ends by its budget is in the mode it began
in (`steps_mode`). -/
theorem runSliceStopsAtTheFirstBreakpoint : Obligations.RunSliceStopsAtTheFirstBreakpoint := by
  unfold Obligations.RunSliceStopsAtTheFirstBreakpoint
  intro s u n r h
  replace h : commandRunSlice n s = .next (r, u) := h
  refine ⟨fun hrun => ?_, fun hrun => ?_⟩
  · cases (commandRunSlice_of_not_running hrun n).symm.trans h
    exact ⟨rfl, rfl⟩
  · rw [commandRunSlice_of_running hrun] at h
    obtain ⟨k, t, hk, hsteps, hbefore, hend⟩ := runSliceSteps_spec h
    refine ⟨k, t, hk, hsteps, hbefore, ?_⟩
    cases hend with
    | budget hk ht => exact .inl ⟨rfl, hk, rfl, (steps_mode hsteps).trans hrun, ht⟩
    | faulted hk ht => exact .inr (.inl ⟨_, rfl, hk, ht, rfl, rfl⟩)
    | breakpoint hk hv ht => exact .inr (.inr ⟨rfl, hk, hv, ht, rfl⟩)

/-! ### `STEP_INSTRUCTION` (R321) -/

/-- Settles O55: the step in the mode Stepping is the step (`step_setMode`). -/
theorem stepInstructionIsOneStep : Obligations.StepInstructionIsOneStep := by
  unfold Obligations.StepInstructionIsOneStep
  intro s t h
  refine ⟨t.setMode .halted, ?_, rfl⟩
  rw [command, commandStepInstruction, step_setMode h]
  rfl

/-! ### Introspection (R324, R325, R326) -/

theorem State.disassembleAt_of_lt {s : State} {addr : Word} (h : addr.toNat + 1 < s.params.memSize) :
    s.disassembleAt addr = some (disassembleWord (s.wordAt addr.toNat)) :=
  if_pos h

theorem State.disassembleAt_of_le {s : State} {addr : Word} (h : s.params.memSize ≤ addr.toNat + 1) :
    s.disassembleAt addr = none :=
  if_neg h.not_gt

theorem State.readBlock_getElem? (s : State) (a : Nat) {n k : Nat} (h : k < n) :
    (s.readBlock a n)[k]? = some (s.byteAt (a + k)) := by
  simp [State.readBlock, h]

theorem commandDumpMemory_of_inside {s : State} {lo hi : Nat} (h : lo ≤ hi ∧ hi ≤ s.params.memSize) :
    commandDumpMemory lo hi s = (.bytes (s.readBlock lo (hi - lo)), s) :=
  if_pos h

theorem commandDumpMemory_of_outside {s : State} {lo hi : Nat} (h : hi < lo ∨ s.params.memSize < hi) :
    commandDumpMemory lo hi s = (.outOfBounds, s) :=
  if_neg (by omega)

/-- Settles O57: the snapshot copies its fields, and the other two commands check their range and read. -/
theorem introspectionReadsAndChangesNothing : Obligations.IntrospectionReadsAndChangesNothing := by
  unfold Obligations.IntrospectionReadsAndChangesNothing
  refine fun s addr lo hi => ⟨fun h => ?_, fun h => ?_,
    ⟨s.snapshot, rfl, rfl, rfl, rfl, rfl, rfl, rfl, rfl, rfl, rfl⟩, fun hlo hhi =>
    ⟨s.readBlock lo (hi - lo), ?_, s.readBlock_length _ _, fun k hk => s.readBlock_getElem? lo hk⟩, fun h => ?_⟩
  · rw [command, commandDisassemble, State.disassembleAt_of_lt h]
    rfl
  · rw [command, commandDisassemble, State.disassembleAt_of_le h]
  · rw [command, commandDumpMemory_of_inside ⟨hlo, hhi⟩]
  · rw [command, commandDumpMemory_of_outside h]

end Sys2Proof.Machine
end

section
/-! Construction, `RESET` and `LOAD` (spec/10_state.md R45, spec/20_memory.md R80, spec/70_reset_and_hazards.md R380
to R382). -/

namespace Sys2Proof.Machine

/-! ### The image (R382) -/

theorem commandLoad_of_fits {image : List Byte} {s : State} (h : image.length ≤ s.params.memSize - s.params.entry) :
    commandLoad image s = (.ok, s.writeBlock s.params.entry image) :=
  if_neg h.not_gt

theorem commandLoad_of_too_long {image : List Byte} {s : State}
    (h : s.params.memSize - s.params.entry < image.length) : commandLoad image s = (.capacityExceeded, s) :=
  if_pos h

/-- Settles O51: an image that fits is one block written at `ENTRY` inside memory (`State.byteAt_writeBlock`). -/
theorem loadCopiesTheImage : Obligations.LoadCopiesTheImage := by
  unfold Obligations.LoadCopiesTheImage
  intro s image hentry hm
  refine ⟨fun hlen => ?_, fun hlen => ?_⟩
  · have hfit : s.params.entry + image.length ≤ s.params.memSize := by omega
    exact ⟨s.writeBlock s.params.entry image, by rw [command, commandLoad_of_fits hlen], rfl,
      State.byteAt_writeBlock hm hfit⟩
  · rw [command, commandLoad_of_too_long hlen]

/-! ### The cleared registers, stack and keys (R45) -/

@[simp] theorem State.construct_reg (p : Params) (r : RegName) : (State.construct p).reg r = 0 :=
  Vector.getElem_replicate r.isLt

@[simp] theorem State.construct_stackEntry (p : Params) (k : Fin 16) : (State.construct p).stackEntry k = 0 :=
  Vector.getElem_replicate k.isLt

@[simp] theorem State.construct_keyDown (p : Params) (k : KeyName) : (State.construct p).keyDown k = false :=
  Vector.getElem_replicate k.isLt

@[simp] theorem State.resetUnit_reg (s : State) (r : RegName) : s.resetUnit.reg r = 0 :=
  State.construct_reg s.params r

@[simp] theorem State.resetUnit_stackEntry (s : State) (k : Fin 16) : s.resetUnit.stackEntry k = 0 :=
  State.construct_stackEntry s.params k

/-! ### The font and the zeros after it (R80, R380) -/

/-- Nothing is stored at construction, so every address reads as its construction byte. -/
theorem State.construct_byteAt (p : Params) (a : Nat) : (State.construct p).byteAt a = initialByte p a := rfl

theorem glyphRow_of_no_digit {d : Nat} (h : 16 ≤ d) (r : Nat) : glyphRow d r = 0 := by
  have hlen : fontGlyphs.length ≤ d := h
  rw [glyphRow, List.getD_eq_default _ _ hlen, List.getD_nil]

/-- The 16 glyphs end at `FONT_BASE + 16 * GLYPH_BYTES`. -/
theorem initialByte_of_past_font {p : Params} {a : Nat} (hg : 0 < p.glyphBytes)
    (ha : p.fontBase + 16 * p.glyphBytes ≤ a) : initialByte p a = 0 := by
  have hdigit : 16 ≤ (a - p.fontBase) / p.glyphBytes := (Nat.le_div_iff_mul_le hg).2 (by omega)
  rw [initialByte, if_neg (by omega), glyphRow_of_no_digit hdigit]

/-! ### Construction and `RESET` (R45, R380, R381) -/

/-- Settles O17: the 80 font bytes are the glyphs in order, and past them every byte is 0
(`initialByte_of_past_font`). -/
theorem constructionLeavesTheStatedValues : Obligations.ConstructionLeavesTheStatedValues := by
  unfold Obligations.ConstructionLeavesTheStatedValues
  have hfont : State.reset.readBlock 0 80 = fontGlyphs.flatten := by decide
  have hzero : ∀ a, 80 ≤ a → State.reset.byteAt a = 0 := fun a ha =>
    (State.construct_byteAt _ a).trans (initialByte_of_past_font (by decide) ha)
  exact ⟨State.construct_reg _, rfl, rfl, rfl, State.construct_stackEntry _, rfl, rfl, displayShaped_blank _,
    pixelAt_blank _, State.construct_keyDown _, rfl, rfl, rfl, rfl, rfl, rfl, rfl, rfl, hfont, hzero⟩

/-- Settles O50: each field of `State.resetUnit` is read by its law. -/
theorem resetCommandClearsTheUnit : Obligations.ResetCommandClearsTheUnit := by
  unfold Obligations.ResetCommandClearsTheUnit
  exact fun s => ⟨s.resetUnit, rfl, s.resetUnit_reg, s.resetUnit_i, s.resetUnit_sp, s.resetUnit_stackEntry,
    s.resetUnit_pc, s.resetUnit_dt, s.resetUnit_st, displayShaped_blank s.params, pixelAt_blank s.params,
    s.resetUnit_bp, s.resetUnit_mode, s.resetUnit_fault, s.resetUnit_waitArmed, s.resetUnit_keyEvents,
    s.resetUnit_mem, s.resetUnit_key, s.resetUnit_params⟩

end Sys2Proof.Machine
end
